-- ==== Sys2Proof/Word.lean ====
section
/-! DEFINITION. The word types of the block: bytes, byte sequences, 7-bit device addresses and 32-bit
operands (spec 00_scope.md R8). Counts, lengths and channel values are numbers, not words (R9). -/

namespace Sys2Proof

/-- A byte (R8). -/
abbrev Byte := BitVec 8

/-- A byte sequence delivered whole over the host port: a command frame or a response frame (R70). -/
abbrev Frame := List Byte

/-- A 7-bit device address on the bus (R40). -/
abbrev Addr := BitVec 7

/-- A two's-complement 32-bit value, `s32` of R8; read as a number with `BitVec.toInt`. -/
abbrev S32 := BitVec 32

end Sys2Proof
end

