-- ==== Sys2Proof/Config.lean ====
section
/-! DEFINITION. What an implementation fixes (the parameters of 00_scope.md R7 and the register map of
20_memory.md R42), and the free value of this hardware: what the environment answers to a bus
transaction (20_memory.md R45). -/

namespace Sys2Proof

/-- `ARITH` (R7): the arithmetic of the classifier (43_color.md R191 and R192, or R196). -/
inductive Arith where
  | exact
  | binary64
deriving DecidableEq, Repr

/-- `ITIME_ROUND` (R7): how a non-integer tick count becomes an integer (41_driver_config.md R134). -/
inductive ItimeRound where
  | floorTicks
  | ceilTicks
deriving DecidableEq, Repr

/-- The parameters the model takes (R7). No step changes them. -/
structure Config where
  /-- `DEV_ADDR`: the reset value of BUSADDR. -/
  devAddr : Addr
  /-- `ARITH`. -/
  arith : Arith
  /-- `ITIME_ROUND`. -/
  itimeRound : ItimeRound
deriving DecidableEq, Repr

/-- The column "value for this hardware" of R7. -/
def Config.hardware : Config :=
  { devAddr := 0x29, arith := .exact, itimeRound := .floorTicks }

/-- `ENABLE_REG` (R7, R42). -/
def Config.enableReg : Byte := 0x80
/-- `ENABLE_VAL` (R7, R42). -/
def Config.enableVal : Byte := 0x03
/-- `ATIME_REG` (R7, R42). -/
def Config.atimeReg : Byte := 0x81
/-- `ATIME_DEFAULT` (R7, R42). -/
def Config.atimeDefault : Byte := 0x2B
/-- `CDATA_REG` (R7, R42). -/
def Config.cdataReg : Byte := 0xB4
/-- `CDATA_LEN` (R7, R42). -/
def Config.cdataLen : Nat := 8
/-- `OFFSET_SCALE` (R7): OFFSET holds the offset multiplied by this scale. -/
def Config.offsetScale : Int := 1000
/-- `BL_RESET` (R7). -/
def Config.blReset : S32 := 1000
/-- `HYST_RESET` (R7). -/
def Config.hystReset : S32 := 25
/-- `OFFSET_RESET` (R7): 1100 thousandths, 1.1. -/
def Config.offsetReset : S32 := 1100

/-- The outcome of one bus transaction (R45). `ok` carries the bytes of a read; a write carries none. -/
inductive BusOutcome where
  | ok (data : List Byte)
  | fail
  | stall
deriving DecidableEq, Repr, Inhabited

/-- The environment's answer to the k-th transaction of a run for which no answer is laid down in the
state: a draw "under no law" (R45, R58), so nothing can be proved of its value
(notes/assumptions/1.md). -/
opaque Config.busDraw : Nat → BusOutcome

end Sys2Proof
end

