-- ==== Sys2Proof/Syntax.lean ====
section
/-! DEFINITION. The commands of the block: one constructor for each row of the opcode map
(30_encoding.md R74), with its operands in the order of its format (R73). -/

namespace Sys2Proof

/-- A host command with its operands. A device address is typed as 7 bits, so that the check of R76 on
`a` is made where a frame is decoded. -/
inductive Instr where
  /-- WRREG a, r, v (40_adapter.md R101). -/
  | wrreg (a : Addr) (r v : Byte)
  /-- WRBUF a, r, data (R102). -/
  | wrbuf (a : Addr) (r : Byte) (data : List Byte)
  /-- RDBUF a, r, len (R103). -/
  | rdbuf (a : Addr) (r len : Byte)
  /-- DECODE fmt, data (R104). -/
  | decode (fmt data : List Byte)
  /-- SETUP (41_driver_config.md R132). -/
  | setup
  /-- SETITIME t, in milliseconds (R135). -/
  | setitime (t : S32)
  /-- SETPARAM bl, hy, off, the last in thousandths (R136). -/
  | setparam (bl hy off : S32)
  /-- RAW (42_readout.md R161). -/
  | raw
  /-- LIGHT (R162). -/
  | light
  /-- RGB (R164). -/
  | rgb
  /-- COLOR (43_color.md R190). -/
  | color
  /-- GETRED (42_readout.md R167). -/
  | getred
  /-- GETGREEN (R168). -/
  | getgreen
  /-- GETBLUE (R169). -/
  | getblue
deriving DecidableEq, Repr

end Sys2Proof
end

