-- ==== Sys2Proof/WellFormed.lean ====
section
/-! DEFINITION. When a command's operands are legal: the operand checks of 30_encoding.md R76 and the
counts that fit their u8 count byte (R72, R73). -/

namespace Sys2Proof

/-- A byte-string operand fits its u8 count (R72). -/
def fitsCount (bytes : List Byte) : Bool := decide (bytes.length ≤ 255)

/-- The operands of a command are legal (R72, R76): counted byte strings have at most 255 bytes, and
RDBUF reads at least one byte. -/
def Instr.wf : Instr → Bool
  | .wrreg _ _ _ => true
  | .wrbuf _ _ data => fitsCount data
  | .rdbuf _ _ len => decide (1 ≤ len.toNat)
  | .decode fmt data => fitsCount fmt && fitsCount data
  | .setup => true
  | .setitime _ => true
  | .setparam _ _ _ => true
  | .raw => true
  | .light => true
  | .rgb => true
  | .color => true
  | .getred => true
  | .getgreen => true
  | .getblue => true

end Sys2Proof
end

