-- ==== Sys2Proof/Decode.lean ====
section
/-! DEFINITION. Command frames: the opcode map and the formats of 30_encoding.md (R71 to R77), the
decoder, total on any byte sequence, and the encoder. -/

namespace Sys2Proof

/-! ### Little-endian byte sequences (R51, R72) -/

/-- The number that a byte sequence spells, byte 0 least significant (R51). -/
def leNat : List Byte → Nat
  | [] => 0
  | b :: rest => b.toNat + 256 * leNat rest

/-- The low `k` bytes of `n`, byte 0 least significant (R51). -/
def leBytes : Nat → Nat → List Byte
  | 0, _ => []
  | k + 1, n => BitVec.ofNat 8 n :: leBytes k (n / 256)

/-- An s32 operand from its four bytes (R72). -/
def s32Of (bytes : List Byte) : S32 := BitVec.ofNat 32 (leNat bytes)

/-- The four bytes of an s32 operand (R72). -/
def s32Bytes (x : S32) : List Byte := leBytes 4 x.toNat

/-! ### Formats and the opcode map (R73, R74) -/

/-- The seven frame formats of R73. -/
inductive Format where
  | N | WB | WN | RB | DF | T | P
deriving DecidableEq, Repr

/-- The length that its format gives a frame, where the frame holds the count bytes it needs (R73,
R75). -/
def Format.frameLength (f : Frame) : Format → Option Nat
  | .N => some 1
  | .WB => some 4
  | .WN => f[3]?.map fun n => 4 + n.toNat
  | .RB => some 4
  | .DF =>
    match f[1]? with
    | none => none
    | some flen => f[2 + flen.toNat]?.map fun blen => 3 + flen.toNat + blen.toNat
  | .T => some 5
  | .P => some 13

/-- A device address operand: legal when at most 0x7F (R76). -/
def addrOperand (b : Byte) : Option Addr :=
  if b.toNat ≤ 0x7F then some (b.setWidth 7) else none

/-- The operands of format N. -/
def operandsN (i : Instr) : List Byte → Option Instr
  | [] => some i
  | _ => none

/-- The operands of format WB. -/
def operandsWB : List Byte → Option Instr
  | [a, r, v] => (addrOperand a).map fun a => .wrreg a r v
  | _ => none

/-- The operands of format WN: the data is exactly as long as its count byte says (R72). -/
def operandsWN : List Byte → Option Instr
  | a :: r :: n :: data =>
    if data.length = n.toNat then (addrOperand a).map fun a => .wrbuf a r data else none
  | _ => none

/-- The operands of format RB: `len` is at least 1 (R76). -/
def operandsRB : List Byte → Option Instr
  | [a, r, len] => if 1 ≤ len.toNat then (addrOperand a).map fun a => .rdbuf a r len else none
  | _ => none

/-- The operands of format DF: two counted byte strings (R72). -/
def operandsDF : List Byte → Option Instr
  | flen :: rest =>
    match rest.drop flen.toNat with
    | blen :: data =>
      if data.length = blen.toNat then some (.decode (rest.take flen.toNat) data) else none
    | [] => none
  | [] => none

/-- The operand of format T. -/
def operandsT (bytes : List Byte) : Option Instr :=
  if bytes.length = 4 then some (.setitime (s32Of bytes)) else none

/-- The operands of format P. -/
def operandsP (bytes : List Byte) : Option Instr :=
  if bytes.length = 12 then
    some (.setparam (s32Of (bytes.take 4)) (s32Of ((bytes.drop 4).take 4)) (s32Of (bytes.drop 8)))
  else none

/-- A row of the opcode map (R74): the opcode, the format, and how the format's operand bytes are read;
`none` where the frame's length or an operand check fails (R75, R76). -/
structure OpcodeRow where
  opcode : Byte
  mnemonic : String
  format : Format
  operands : List Byte → Option Instr

/-- The opcode map (R74), in its order. -/
def opcodeTable : List OpcodeRow :=
  [ ⟨0x01, "WRREG", .WB, operandsWB⟩,
    ⟨0x02, "WRBUF", .WN, operandsWN⟩,
    ⟨0x03, "RDBUF", .RB, operandsRB⟩,
    ⟨0x04, "DECODE", .DF, operandsDF⟩,
    ⟨0x10, "SETUP", .N, operandsN .setup⟩,
    ⟨0x11, "SETITIME", .T, operandsT⟩,
    ⟨0x12, "SETPARAM", .P, operandsP⟩,
    ⟨0x20, "RAW", .N, operandsN .raw⟩,
    ⟨0x21, "LIGHT", .N, operandsN .light⟩,
    ⟨0x22, "RGB", .N, operandsN .rgb⟩,
    ⟨0x23, "COLOR", .N, operandsN .color⟩,
    ⟨0x24, "GETRED", .N, operandsN .getred⟩,
    ⟨0x25, "GETGREEN", .N, operandsN .getgreen⟩,
    ⟨0x26, "GETBLUE", .N, operandsN .getblue⟩ ]

/-- The row of an opcode: the opcode byte alone selects the command (R74). -/
def opcodeRow (op : Byte) : Option OpcodeRow :=
  opcodeTable.find? fun row => row.opcode == op

/-- The length that the format of its opcode gives a frame; `none` for an unassigned opcode, an empty
frame, or a frame too short to hold its count bytes (R75). -/
def frameLength (f : Frame) : Option Nat :=
  match f with
  | [] => none
  | op :: _ =>
    match opcodeRow op with
    | none => none
    | some row => row.format.frameLength f

/-! ### The decoder -/

/-- Why a frame is no command: checks 2, and 3 and 4, of 60_exceptions.md R228. -/
inductive DecodeError where
  /-- The frame is empty or its opcode is unassigned (R77, R222). -/
  | illegalCommand
  /-- The frame's length or an operand value is not what its format allows (R75, R76, R223). -/
  | illegalOperand
deriving DecidableEq, Repr

/-- The command that a frame carries, or why it carries none (R228, checks 2 to 4). -/
def decode : Frame → Except DecodeError Instr
  | [] => .error .illegalCommand
  | op :: rest =>
    match opcodeRow op with
    | none => .error .illegalCommand
    | some row =>
      match row.operands rest with
      | none => .error .illegalOperand
      | some i => .ok i

/-! ### The encoder -/

/-- A byte string behind its count byte (R72). -/
def counted (bytes : List Byte) : List Byte := BitVec.ofNat 8 bytes.length :: bytes

/-- The frame of a command (R73, R74). -/
def encode : Instr → Frame
  | .wrreg a r v => [0x01, a.setWidth 8, r, v]
  | .wrbuf a r data => 0x02 :: a.setWidth 8 :: r :: counted data
  | .rdbuf a r len => [0x03, a.setWidth 8, r, len]
  | .decode fmt data => 0x04 :: (counted fmt ++ counted data)
  | .setup => [0x10]
  | .setitime t => 0x11 :: s32Bytes t
  | .setparam bl hy off => 0x12 :: (s32Bytes bl ++ s32Bytes hy ++ s32Bytes off)
  | .raw => [0x20]
  | .light => [0x21]
  | .rgb => [0x22]
  | .color => [0x23]
  | .getred => [0x24]
  | .getgreen => [0x25]
  | .getblue => [0x26]

/-! ### A frame from a number -/

/-- The frame whose first `nbits` bits are `w` (bit 0 the least significant bit of byte 0) and whose
further bytes are zeros, as many as its format asks for: the host port delivers a frame's length with
the frame (R70). -/
def tableFrame (nbits w : Nat) : Frame :=
  let given := leBytes ((nbits + 7) / 8) w
  let padded := given ++ List.replicate 513 0
  match frameLength padded with
  | some n => padded.take n
  | none => given

/-- The command that the decoder reads from the frame `tableFrame nbits w`. -/
def decodeTableWord (nbits w : Nat) : Option Instr :=
  match decode (tableFrame nbits w) with
  | .ok i => some i
  | .error _ => none

end Sys2Proof
end

