-- ==== Sys2Proof/Machine/Operands.lean ====
section
/-! DEFINITION. What commands compute from their operands and from the bytes they read: the format
decoder of the adapter (40_adapter.md R105 to R108), channel counts (20_memory.md R50), the tick
count (41_driver_config.md R134), the rounded normalised channel (42_readout.md R166), and the payload
layouts (30_encoding.md R79). -/

namespace Sys2Proof.Machine

/-! ### Payload fields (R79): little-endian, byte 0 least significant (R51) -/

/-- `u16le` (42_readout.md R161). -/
def u16le (x : Nat) : List Byte := leBytes 2 x

/-- `u32le` (R164). -/
def u32le (x : Nat) : List Byte := leBytes 4 x

/-- `s32le`: the four bytes of x as s32 (40_adapter.md R104). -/
def s32le (x : Int) : List Byte := leBytes 4 (BitVec.ofInt 32 x).toNat

/-! ### The format decoder -/

/-- The kind of a data field of a format (R106): its width in bytes and whether it is signed. -/
structure FieldKind where
  width : Nat
  signed : Bool
deriving DecidableEq, Repr

/-- The format characters that are data fields (R81, R106). -/
def fieldKind (c : Byte) : Option FieldKind :=
  if c = 0x62 then some { width := 1, signed := true }
  else if c = 0x42 then some { width := 1, signed := false }
  else if c = 0x68 then some { width := 2, signed := true }
  else if c = 0x48 then some { width := 2, signed := false }
  else none

/-- The value of a field whose bytes are `window`, in the byte order in force (R105). -/
def FieldKind.value (k : FieldKind) (le : Bool) (window : List Byte) : Int :=
  let u := leNat (if le then window else window.reverse)
  if k.signed && decide (2 ^ (8 * k.width - 1) ≤ u) then (u : Int) - 2 ^ (8 * k.width) else u

/-- The scan of R105 over the format characters left and the data bytes left, in the byte order in
force; `none` is FATAL_FORMAT (R108). -/
def scanFormat (le : Bool) : List Byte → List Byte → Option (List Int)
  | [], _ => some []
  | c :: fmt, data =>
    if c = 0x3C then scanFormat true fmt data
    else if c = 0x3E then scanFormat false fmt data
    else
      match fieldKind c with
      | none => none
      | some k =>
        if data.length < k.width then none
        else (scanFormat le fmt (data.drop k.width)).map (k.value le (data.take k.width) :: ·)

/-- `decode(fmt, bytes)` of R105: little-endian until a marker (R107). -/
def decodeFormat (fmt data : List Byte) : Option (List Int) := scanFormat true fmt data

/-- The payload of DECODE (R79, R104): the number of values, then each as s32. -/
def decodePayload (vals : List Int) : List Byte :=
  BitVec.ofNat 8 vals.length :: vals.flatMap s32le

/-! ### Channels -/

/-- RawChannels (10_state.md R32): clear, red, green, blue counts. -/
structure Channels where
  clear : Nat
  red : Nat
  green : Nat
  blue : Nat
deriving DecidableEq, Repr

/-- The format "HHHH" (42_readout.md R160). -/
def channelFormat : List Byte := [0x48, 0x48, 0x48, 0x48]

/-- The channel counts in the bytes of a channel read, by the decoder with format "HHHH" (R160). -/
def channelsOf (d : List Byte) : Option Channels :=
  match decodeFormat channelFormat d with
  | some [c, r, g, b] =>
    some { clear := c.toNat, red := r.toNat, green := g.toNat, blue := b.toNat }
  | _ => none

/-- The payload of RAW (R161). -/
def rawPayload (ch : Channels) : List Byte :=
  u16le ch.clear ++ u16le ch.red ++ u16le ch.green ++ u16le ch.blue

/-- The payload of RGB (R164): the clear count as common denominator and the numerators 255 · X of
R163. -/
def rgbPayload (ch : Channels) : List Byte :=
  u16le ch.clear ++ u32le (255 * ch.red) ++ u32le (255 * ch.green) ++ u32le (255 * ch.blue)

/-- `round(norm(X, C))` for C ≠ 0 (R166). -/
def roundedNorm (x c : Nat) : Nat := (510 * x + c) / (2 * c)

/-- The payload of GETRED, GETGREEN and GETBLUE (R167 to R169): the rounded channel, or the sentinel 0
where the clear count is 0 (R170). -/
def roundedPayload (x c : Nat) : List Byte :=
  if c = 0 then u32le 0 else u32le (roundedNorm x c)

/-! ### Integration time -/

/-- `clamp(lo, hi, x)` of 00_scope.md R9. -/
def clamp (lo hi x : Int) : Int := min hi (max lo x)

/-- `itime_ticks(t)` of R134. Division by the positive 24 is floor division (R9); ⌈q⌉ is -⌊-q⌋. -/
def itimeTicks (m : ItimeRound) (t : Int) : Int :=
  match m with
  | .floorTicks => clamp 0 255 ((10 * t) / 24)
  | .ceilTicks => clamp 0 255 (-((-(10 * t)) / 24))

/-- The timing byte `255 - ticks` that SETITIME writes (R135). -/
def timingByte (m : ItimeRound) (t : Int) : Byte := BitVec.ofInt 8 (255 - itimeTicks m t)

end Sys2Proof.Machine
end

