-- ==== Sys2Proof/Machine/Classify.lean ====
section
/-! DEFINITION. The colour classifier (43_color.md R191, R192, R196) and the binary64 rounding that it
takes under `ARITH = BINARY64` (00_scope.md R9). -/

namespace Sys2Proof.Machine

/-- The classification parameters as numbers: BLACK_LIMIT, HYST and OFFSET (10_state.md R24 to R26). -/
structure ClassParams where
  blackLimit : Int
  hyst : Int
  offset : Int
deriving DecidableEq, Repr

/-- The decision tree of R191 over the outcomes of its five tests. -/
def decisionTree (lowSpread dark red green blue : Bool) : Nat :=
  if lowSpread then (if dark then 0 else 7)
  else (if red then 1 else 0) + (if green then 2 else 0) + (if blue then 4 else 0)

/-- The comparator datapath of R192, on integers only; `c2` is the clear count of the second read. -/
def classifyExact (p : ClassParams) (ch : Channels) (c2 : Nat) : Nat :=
  let mx : Int := max (max ch.red ch.green) ch.blue
  let mn : Int := min (min ch.red ch.green) ch.blue
  let sum : Int := ch.red + ch.green + ch.blue
  decisionTree
    (decide (255 * (mx - mn) < p.hyst * ch.clear))
    (decide ((c2 : Int) < p.blackLimit))
    (decide (3000 * (ch.red : Int) > sum * p.offset))
    (decide (3000 * (ch.green : Int) > sum * p.offset))
    (decide (3000 * (ch.blue : Int) > sum * p.offset))

/-- The pseudocode of R191 over rationals, with `rnd` applied to the result of each operation in the
order of R196: R191 itself is this at the identity. -/
def classifyRounding (rnd : Rat → Rat) (p : ClassParams) (ch : Channels) (c2 : Nat) : Nat :=
  let r := rnd ((255 * (ch.red : Rat)) / (ch.clear : Rat))
  let g := rnd ((255 * (ch.green : Rat)) / (ch.clear : Rat))
  let b := rnd ((255 * (ch.blue : Rat)) / (ch.clear : Rat))
  let dif := rnd (max (max r g) b - min (min r g) b)
  let o := rnd ((p.offset : Rat) / (Config.offsetScale : Rat))
  let avr := rnd (rnd (rnd (rnd (r + g) + b) / 3) * o)
  decisionTree
    (decide (dif < (p.hyst : Rat)))
    (decide ((c2 : Int) < p.blackLimit))
    (decide (r > avr)) (decide (g > avr)) (decide (b > avr))

/-! ### binary64 (R9, R196) -/

/-- The power 2^e, for an exponent of either sign. -/
def pow2 : Int → Rat
  | .ofNat n => ((2 ^ n : Nat) : Rat)
  | .negSucc n => 1 / ((2 ^ (n + 1) : Nat) : Rat)

/-- The nearest integer, ties to even (R9). -/
def roundHalfEven (q : Rat) : Int :=
  let f := q.floor
  if q - f < 1 / 2 then f
  else if 1 / 2 < q - f then f + 1
  else if f % 2 = 0 then f else f + 1

/-- The exponent e with 2^e ≤ |q| < 2^(e+1), for q ≠ 0. -/
def binaryExponent (q : Rat) : Int :=
  let k : Int := (Nat.log2 q.num.natAbs : Int) - (Nat.log2 q.den : Int)
  if pow2 k * q.den ≤ q.num.natAbs then k else k - 1

/-- `fl(q)` of R9: the binary64 value nearest to q, ties to even, which has 53 significant bits. The
values of R196 lie far inside the normal range, so no exponent bound is applied
(notes/assumptions/6.md). -/
def fl (q : Rat) : Rat :=
  if q = 0 then 0
  else
    let ulp := pow2 (binaryExponent q - 52)
    roundHalfEven (q / ulp) * ulp

/-- `classify` under the parameter `ARITH` (R191, R192, R196). -/
def classify (m : Arith) (p : ClassParams) (ch : Channels) (c2 : Nat) : Nat :=
  match m with
  | .exact => classifyExact p ch c2
  | .binary64 => classifyRounding fl p ch c2

end Sys2Proof.Machine
end

