-- ==== Sys2Proof/Machine/Flags.lean ====
section
/-! DEFINITION. The block has no flags register (10_state.md R33): the outcome of a command is the
status byte of its own response frame (30_encoding.md R78). The status codes, and which of them a
command's last test gives. -/

namespace Sys2Proof.Machine

/-- The statuses of R78. -/
inductive Status where
  | ok
  | clearZero
  | illegalCommand
  | illegalOperand
  | fatalBus
  | fatalFormat
  | halted
deriving DecidableEq, Repr

/-- The status byte (R78). -/
def Status.code : Status → Byte
  | .ok => 0x00
  | .clearZero => 0x01
  | .illegalCommand => 0x02
  | .illegalOperand => 0x03
  | .fatalBus => 0x80
  | .fatalFormat => 0x81
  | .halted => 0x82

/-- A payload follows only for OK and CLEAR_ZERO (R78). -/
def Status.hasPayload : Status → Bool
  | .ok => true
  | .clearZero => true
  | .illegalCommand => false
  | .illegalOperand => false
  | .fatalBus => false
  | .fatalFormat => false
  | .halted => false

/-- The status of a command that divides by the clear count of its normalising read (42_readout.md
R170). -/
def clearStatus (clear : Nat) : Status := if clear = 0 then .clearZero else .ok

end Sys2Proof.Machine
end

