-- ==== Sys2Proof/Machine/State.lean ====
section
/-! DEFINITION. The machine's state: the architectural state of 10_state.md R20, the hidden sequencer
position of R34, the parameters of 00_scope.md R7, and what stands at the block's two ports: the host's
inputs, the environment's answers, and the observation of 20_memory.md R57. The reasons to stop, and
the state after reset (70_reset_and_hazards.md R250). -/

namespace Sys2Proof.Machine

/-- MODE (R21). -/
inductive Mode where
  | run
  | halted
deriving DecidableEq, Repr

/-- An event of the observation (R57). -/
inductive Event where
  /-- `Cmd(frame)`: the host delivered a command frame. -/
  | cmd (f : Frame)
  /-- `W(a, v, outcome)`: a write transaction of the bytes `v` to the address `a`. -/
  | write (a : Addr) (v : List Byte) (o : BusOutcome)
  /-- `R(a, n, outcome)`: a read transaction of `n` bytes from the address `a`. -/
  | read (a : Addr) (n : Nat) (o : BusOutcome)
  /-- `Resp(frame)`: the block emitted a response frame. -/
  | resp (f : Frame)
  /-- `Reset`: the reset input was asserted. -/
  | reset
deriving DecidableEq, Repr

/-- The hidden sequencer position (R34): the command in execution, how many of its bus transactions
have been issued, and the bytes its reads have returned so far. -/
structure SeqPos where
  command : Instr
  issued : Nat
  values : List (List Byte)
deriving DecidableEq, Repr

/-- What reaches the block from the host side: a command frame (R70) or the reset input (R250, R251). -/
inductive HostInput where
  /-- The host delivers this frame once the block waits for one (R260). -/
  | command (f : Frame)
  /-- The reset input is asserted while the block rests: waiting for a frame, or stalled. -/
  | reset
  /-- The reset input is asserted inside the command before it, after `k` of that command's events (bus
  transactions and response), or, if the command ends or stalls earlier, while the block rests. -/
  | resetDuring (k : Nat)
deriving DecidableEq, Repr

/-- The state. No field has a function type. -/
@[ext]
structure State where
  /-- The parameters (R7): model field, changed by nothing. -/
  cfg : Config
  /-- MODE (R21). -/
  mode : Mode
  /-- INIT, the setup flag (R22). -/
  init : Bool
  /-- BUSADDR (R23). -/
  busaddr : Addr
  /-- BLACK_LIMIT (R24). -/
  blackLimit : S32
  /-- HYST (R25). -/
  hyst : S32
  /-- OFFSET, in thousandths (R26). -/
  offset : S32
  /-- FATAL_CAUSE (R27). -/
  fatalCause : Byte
  /-- The hidden sequencer position (R34); `none` is empty: no command is in execution. -/
  seq : Option SeqPos
  /-- The host's inputs still to come, the next first: model field (R3, R70, R260). -/
  inputs : List HostInput
  /-- The environment's next answers, the next first: model field (R3, R45). Past its end an answer is
  the free value `Config.busDraw`. -/
  answers : List BusOutcome
  /-- How many answers the environment has given: model field, the counter `Config.busDraw` is
  applied to. -/
  drawn : Nat
  /-- The observation so far, oldest event first (R57). -/
  trace : List Event
deriving DecidableEq, Repr

/-- Why a step stops with a fault. There is no constructor: every error of 60_exceptions.md R220 is
answered with a status code or leaves the block stalled, and both are next states. Safe: nothing is cut
off. -/
inductive Fault where
deriving DecidableEq, Repr

/-- Why a step is refused. -/
inductive Refusal where
  /-- Raised by an arm of `exec` for a command that has no meaning in the model; no arm does. Safe: the
  model stops where the block goes on. -/
  | notModelled (mnemonic : String)
deriving DecidableEq, Repr

/-- The state right after reset (R250), with the parameters of this hardware (R7); nothing has come
from the host yet, no answer is laid down, and the observation is empty. -/
def State.reset : State :=
  { cfg := Config.hardware
    mode := .run
    init := false
    busaddr := Config.hardware.devAddr
    blackLimit := Config.blReset
    hyst := Config.hystReset
    offset := Config.offsetReset
    fatalCause := 0x00
    seq := none
    inputs := []
    answers := []
    drawn := 0
    trace := [] }

end Sys2Proof.Machine
end

