-- ==== Sys2Proof/Machine/Ops.lean ====
section
/-! DEFINITION. The shared operations of commands: responding, fatal entry and reset, bus transactions,
the register read, lazy setup, the channel read, and the common checks of a command. -/

namespace Sys2Proof.Machine

/-! ### The observation and the sequencer position -/

/-- The block produces an event (20_memory.md R57). -/
def State.log (s : State) (e : Event) : State := { s with trace := s.trace ++ [e] }

/-- A command begins: the sequencer stands before its first transaction (10_state.md R34). -/
def State.beginCommand (s : State) (i : Instr) : State :=
  { s with seq := some { command := i, issued := 0, values := [] } }

/-- The environment's answer to the k-th transaction from here (20_memory.md R45): the answer laid down
for it, or the free value of the run's transaction of that number. -/
def State.drawAt (s : State) (k : Nat) : BusOutcome :=
  s.answers.getD k (Config.busDraw (s.drawn + k))

/-- A transaction is issued: its answer is used up and the sequencer counts it (R34). -/
def State.issue (s : State) : State :=
  { s with
    answers := s.answers.drop 1
    drawn := s.drawn + 1
    seq := s.seq.map fun p => { p with issued := p.issued + 1 } }

/-- The sequencer keeps the bytes of a completed read (R34). -/
def State.keepValue (s : State) (d : List Byte) : State :=
  { s with seq := s.seq.map fun p => { p with values := p.values ++ [d] } }

/-! ### Ending a command -/

/-- `respond(status, payload)` (00_scope.md R10): the command ends and the response frame
`[status] ++ payload` is emitted (30_encoding.md R78). -/
def respond (st : Status) (payload : List Byte) (s : State) : State :=
  { s with seq := none, trace := s.trace ++ [.resp (st.code :: payload)] }

/-- `FatalEntry(c)` (60_exceptions.md R229): the block halts with its cause and answers the code. -/
def fatalEntry (st : Status) (s : State) : State :=
  respond st [] { s with mode := .halted, fatalCause := st.code }

/-- The reset input (70_reset_and_hazards.md R250): every field of the block takes its reset value, a
command in execution is aborted without a response (R251), and the event `Reset` is observed. It is the
only way out of HALTED (60_exceptions.md R231). -/
def resetBlock (s : State) : State :=
  { s with
    mode := .run
    init := false
    busaddr := s.cfg.devAddr
    blackLimit := Config.blReset
    hyst := Config.hystReset
    offset := Config.offsetReset
    fatalCause := 0x00
    seq := none
    trace := s.trace ++ [.reset] }

/-- A stretch of a command: it goes on with a value, or the command has ended there, by fatal entry or
by a stall. -/
inductive Progress (α : Type) where
  | going (a : α) (s : State)
  | ended (s : State)

/-- The next stretch, where the one before went on. -/
def Progress.bind {α β : Type} (p : Progress α) (f : α → State → Progress β) : Progress β :=
  match p with
  | .going a s => f a s
  | .ended s => .ended s

/-- The end of a command, where the stretch before went on. -/
def Progress.finish {α : Type} (p : Progress α) (f : α → State → State) : State :=
  match p with
  | .going a s => f a s
  | .ended s => s

/-! ### Bus transactions (20_memory.md R44, R45) -/

/-- The outcome of a write transaction: an `Ok` carries no bytes (R57). -/
def writeOutcome : BusOutcome → BusOutcome
  | .ok _ => .ok []
  | .fail => .fail
  | .stall => .stall

/-- The outcome of a read of n bytes: an answer of another length counts as `Fail` (R45). -/
def readOutcome (n : Nat) : BusOutcome → BusOutcome
  | .ok d => if d.length = n then .ok d else .fail
  | .fail => .fail
  | .stall => .stall

/-- `BusWrite(a, v)`: on `Ok` the command goes on; on `Fail` it raises FATAL_BUS (60_exceptions.md R225);
on `Stall` it stays where it is, its sequencer position held (R232). -/
def busWrite (a : Addr) (v : List Byte) (s : State) : Progress Unit :=
  let o := writeOutcome (s.drawAt 0)
  let s' := s.issue.log (.write a v o)
  match o with
  | .ok _ => .going () s'
  | .fail => .ended (fatalEntry .fatalBus s')
  | .stall => .ended s'

/-- `BusRead(a, n)`: as `busWrite`, and on `Ok` it gives the bytes read. -/
def busRead (a : Addr) (n : Nat) (s : State) : Progress (List Byte) :=
  let o := readOutcome n (s.drawAt 0)
  let s' := s.issue.log (.read a n o)
  match o with
  | .ok d => .going d (s'.keepValue d)
  | .fail => .ended (fatalEntry .fatalBus s')
  | .stall => .ended s'

/-- The two-phase register read (20_memory.md R46, 30_encoding.md R80): the select write, then a
separate read transaction. -/
def registerRead (a : Addr) (r : Byte) (n : Nat) (s : State) : Progress (List Byte) :=
  (busWrite a [r] s).bind fun _ s => busRead a n s

/-! ### The driver -/

/-- INIT is set (10_state.md R22). -/
def State.markInit (s : State) : State := { s with init := true }

/-- `EnsureSetup()` (41_driver_config.md R130). -/
def ensureSetup (s : State) : Progress Unit :=
  if s.init then .going () s
  else
    (busWrite s.busaddr [Config.enableReg, Config.enableVal] s).bind fun _ s =>
      (busWrite s.busaddr [Config.atimeReg, Config.atimeDefault] s).bind fun _ s =>
        .going () s.markInit

/-- `ReadChannels()` (42_readout.md R160). -/
def readChannels (s : State) : Progress Channels :=
  (ensureSetup s).bind fun _ s =>
    (registerRead s.busaddr Config.cdataReg Config.cdataLen s).bind fun d s =>
      match channelsOf d with
      | some ch => .going ch s
      | none => .ended (fatalEntry .fatalFormat s)

/-- SETPARAM's write of the three classification parameters (41_driver_config.md R136). -/
def State.setParams (s : State) (bl hy off : S32) : State :=
  { s with blackLimit := bl, hyst := hy, offset := off }

/-- The classification parameters that COLOR reads (43_color.md R191). -/
def State.classParams (s : State) : ClassParams :=
  { blackLimit := s.blackLimit.toInt, hyst := s.hyst.toInt, offset := s.offset.toInt }

/-! ### The common checks (60_exceptions.md R228) -/

/-- A command under the checks of R228: HALTED before all others, then the legality of its operands, and
only then its own rule. -/
def runCommand (i : Instr) (s : State) (body : State → State) :
    Host.Outcome State Fault Refusal :=
  .next
    (match s.mode with
    | .halted => respond .halted [] s
    | .run =>
      if i.wf then body (s.beginCommand i) else respond .illegalOperand [] s)

end Sys2Proof.Machine
end

