-- ==== Sys2Proof/Machine/Adapter.lean ====
section
/-! DEFINITION. The Bus Protocol Adapter's commands (40_adapter.md): WRREG, WRBUF, RDBUF, DECODE. They
never read BUSADDR or the classification parameters and never touch INIT (R100). -/

namespace Sys2Proof.Machine

/-- WRREG (R101). -/
def execWrreg (a : Addr) (r v : Byte) (s : State) : Host.Outcome State Fault Refusal :=
  runCommand (.wrreg a r v) s fun s =>
    (busWrite a [r, v] s).finish fun _ s => respond .ok [] s

/-- WRBUF (R102): one transaction of 1 + n bytes. -/
def execWrbuf (a : Addr) (r : Byte) (data : List Byte) (s : State) :
    Host.Outcome State Fault Refusal :=
  runCommand (.wrbuf a r data) s fun s =>
    (busWrite a (r :: data) s).finish fun _ s => respond .ok [] s

/-- RDBUF (R103): the bytes read are the payload. -/
def execRdbuf (a : Addr) (r len : Byte) (s : State) : Host.Outcome State Fault Refusal :=
  runCommand (.rdbuf a r len) s fun s =>
    (registerRead a r len.toNat s).finish fun d s => respond .ok d s

/-- DECODE (R104): no bus transaction; a format error is fatal and gives no partial result (R108). -/
def execDecode (fmt data : List Byte) (s : State) : Host.Outcome State Fault Refusal :=
  runCommand (.decode fmt data) s fun s =>
    match decodeFormat fmt data with
    | some vals => respond .ok (decodePayload vals) s
    | none => fatalEntry .fatalFormat s

end Sys2Proof.Machine
end

