-- ==== Sys2Proof/Machine/Color.lean ====
section
/-! DEFINITION. The colour classification command (43_color.md): COLOR. -/

namespace Sys2Proof.Machine

/-- The payload of COLOR (R190): the class of the first read's channels and the second read's clear
count, or the sentinel class 0 where the first read's clear count is 0 (R194). -/
def colorPayload (m : Arith) (p : ClassParams) (ch : Channels) (c2 : Nat) : List Byte :=
  if ch.clear = 0 then [0x00] else [BitVec.ofNat 8 (classify m p ch c2)]

/-- COLOR (R190): two channel reads, the second issued whatever the first returned (R194). -/
def execColor (s : State) : Host.Outcome State Fault Refusal :=
  runCommand .color s fun s =>
    (readChannels s).finish fun ch1 s =>
      (readChannels s).finish fun ch2 s =>
        respond (clearStatus ch1.clear)
          (colorPayload s.cfg.arith s.classParams ch1 ch2.clear) s

end Sys2Proof.Machine
end

