-- ==== Sys2Proof/Machine/DriverConfig.lean ====
section
/-! DEFINITION. The driver's setup and configuration commands (41_driver_config.md): SETUP, SETITIME,
SETPARAM. -/

namespace Sys2Proof.Machine

/-- SETUP (R132). -/
def execSetup (s : State) : Host.Outcome State Fault Refusal :=
  runCommand .setup s fun s =>
    (ensureSetup s).finish fun _ s => respond .ok [] s

/-- SETITIME (R135). The block keeps no copy of the integration time. -/
def execSetitime (t : S32) (s : State) : Host.Outcome State Fault Refusal :=
  runCommand (.setitime t) s fun s =>
    (ensureSetup s).finish fun _ s =>
      (busWrite s.busaddr [Config.atimeReg, timingByte s.cfg.itimeRound t.toInt] s).finish
        fun _ s => respond .ok [] s

/-- SETPARAM (R136): no check of a value (R137), no transaction, and EnsureSetup is not called. -/
def execSetparam (bl hy off : S32) (s : State) : Host.Outcome State Fault Refusal :=
  runCommand (.setparam bl hy off) s fun s => respond .ok [] (s.setParams bl hy off)

end Sys2Proof.Machine
end

