-- ==== Sys2Proof/Machine/Readout.lean ====
section
/-! DEFINITION. The channel read-out commands (42_readout.md): RAW, LIGHT, RGB, GETRED, GETGREEN,
GETBLUE. Each issues its own channel read (20_memory.md R55). -/

namespace Sys2Proof.Machine

/-- RAW (R161). -/
def execRaw (s : State) : Host.Outcome State Fault Refusal :=
  runCommand .raw s fun s =>
    (readChannels s).finish fun ch s => respond .ok (rawPayload ch) s

/-- LIGHT (R162): the clear count is an integer, so its rounding is the identity. -/
def execLight (s : State) : Host.Outcome State Fault Refusal :=
  runCommand .light s fun s =>
    (readChannels s).finish fun ch s => respond .ok (u16le ch.clear) s

/-- RGB (R164): with a clear count of 0 the same payload, under status CLEAR_ZERO (R170). -/
def execRgb (s : State) : Host.Outcome State Fault Refusal :=
  runCommand .rgb s fun s =>
    (readChannels s).finish fun ch s => respond (clearStatus ch.clear) (rgbPayload ch) s

/-- GETRED (R167). -/
def execGetred (s : State) : Host.Outcome State Fault Refusal :=
  runCommand .getred s fun s =>
    (readChannels s).finish fun ch s =>
      respond (clearStatus ch.clear) (roundedPayload ch.red ch.clear) s

/-- GETGREEN (R168). -/
def execGetgreen (s : State) : Host.Outcome State Fault Refusal :=
  runCommand .getgreen s fun s =>
    (readChannels s).finish fun ch s =>
      respond (clearStatus ch.clear) (roundedPayload ch.green ch.clear) s

/-- GETBLUE (R169). -/
def execGetblue (s : State) : Host.Outcome State Fault Refusal :=
  runCommand .getblue s fun s =>
    (readChannels s).finish fun ch s =>
      respond (clearStatus ch.clear) (roundedPayload ch.blue ch.clear) s

end Sys2Proof.Machine
end

