-- ==== Sys2Proof/Machine/Dispatch.lean ====
section
/-! DEFINITION. The meaning of every command of the opcode map (30_encoding.md R74). -/

namespace Sys2Proof.Machine

def exec (i : Instr) (s : State) : Host.Outcome State Fault Refusal :=
  match i with
  | .wrreg a r v => Sys2Proof.Machine.execWrreg a r v s
  | .wrbuf a r data => Sys2Proof.Machine.execWrbuf a r data s
  | .rdbuf a r len => Sys2Proof.Machine.execRdbuf a r len s
  | .decode fmt data => Sys2Proof.Machine.execDecode fmt data s
  | .setup => Sys2Proof.Machine.execSetup s
  | .setitime t => Sys2Proof.Machine.execSetitime t s
  | .setparam bl hy off => Sys2Proof.Machine.execSetparam bl hy off s
  | .raw => Sys2Proof.Machine.execRaw s
  | .light => Sys2Proof.Machine.execLight s
  | .rgb => Sys2Proof.Machine.execRgb s
  | .color => Sys2Proof.Machine.execColor s
  | .getred => Sys2Proof.Machine.execGetred s
  | .getgreen => Sys2Proof.Machine.execGetgreen s
  | .getblue => Sys2Proof.Machine.execGetblue s

end Sys2Proof.Machine
end

