-- ==== Sys2Proof/Machine/HostPort.lean ====
section
/-! DEFINITION. The host port and the reset input: what reaches the block next (00_scope.md R3,
30_encoding.md R70, 70_reset_and_hazards.md R251, R260), the dispatch of a command frame
(60_exceptions.md R228), and a reset that lands inside a command. -/

namespace Sys2Proof.Machine

/-- What the next step of the block is. -/
inductive Move where
  /-- No command is executed: the step ends in this state. -/
  | rest (t : State)
  /-- A command frame is delivered: the command to execute, or the status it is refused with, and the
  state from which. -/
  | command (c : Except Status Instr) (t : State)

/-- The status of a frame that carries no command (R222, R223). -/
def refusalStatus : DecodeError → Status
  | .illegalCommand => .illegalCommand
  | .illegalOperand => .illegalOperand

/-- Checks 1 to 4 of `Execute(f)` (R228), in their order. -/
def dispatchFrame (f : Frame) (s : State) : Except Status Instr :=
  match s.mode with
  | .halted => .error .halted
  | .run =>
    match decode f with
    | .error e => .error (refusalStatus e)
    | .ok i => .ok i

/-- A reset landing while the block rests (R250, R251). -/
def restReset (rest : List HostInput) (s : State) : State :=
  resetBlock { s with inputs := rest }

/-- The next input reaches the block. With none to come it rests. A frame is delivered only to a block
that is in no command: a stalled block does not move (60_exceptions.md R232, 70_reset_and_hazards.md
R260). -/
def nextMove (s : State) : Move :=
  match s.inputs with
  | [] => .rest s
  | .reset :: rest => .rest (restReset rest s)
  | .resetDuring _ :: rest => .rest (restReset rest s)
  | .command f :: rest =>
    match s.seq with
    | some _ => .rest s
    | none => .command (dispatchFrame f s) ({ s with inputs := rest }.log (.cmd f))

/-- An event that is a bus transaction. -/
def Event.isTransaction : Event → Bool
  | .cmd _ => false
  | .write _ _ _ => true
  | .read _ _ _ => true
  | .resp _ => false
  | .reset => false

/-- The reset input asserted after `k` events of the command that led from `s` to `t` (R251): what the
command did up to there stays done at the bus, nothing more of it happens, and it gets no response. -/
def abortAfter (k : Nat) (rest : List HostInput) (s t : State) : State :=
  let done := (t.trace.drop s.trace.length).take k
  let issued := (done.filter Event.isTransaction).length
  resetBlock
    { s with
      inputs := rest
      answers := s.answers.drop issued
      drawn := s.drawn + issued
      trace := s.trace ++ done }

/-- The end of a command executed from `s`: as the command leaves it, or aborted where the reset input
is asserted inside it. -/
def endCommand (s : State) (o : Host.Outcome State Fault Refusal) :
    Host.Outcome State Fault Refusal :=
  match s.inputs with
  | .resetDuring k :: rest =>
    match o with
    | .next t => .next (abortAfter k rest s t)
    | .fault r => .fault r
    | .refused r => .refused r
  | _ => o

end Sys2Proof.Machine
end

