-- ==== Sys2Proof/Machine/Step.lean ====
section
/-! DEFINITION. One step of the machine: the next input reaches the block, and a command frame is
executed whole (60_exceptions.md R228). -/

namespace Sys2Proof.Machine

/-- One step. -/
def step (s : State) : Host.Outcome State Fault Refusal :=
  match nextMove s with
  | .rest t => .next t
  | .command (.ok i) t => endCommand t (exec i t)
  | .command (.error st) t => endCommand t (.next (respond st [] t))

/-- `s` with the frame `tableFrame nbits w` as the one input to come, and the block in no command. -/
def State.withFetchWord (s : State) (nbits w : Nat) : State :=
  { s with seq := none, inputs := [.command (tableFrame nbits w)] }

end Sys2Proof.Machine
end

