-- ==== Sys2Proof/Safety.lean ====
section
/-! DEFINITION. What counts as a legal state and a legal run of the block, in the words that claims use:
the shape of the observation (20_memory.md R57), the bus script of a command (30_encoding.md R80), and
the state a command leaves when it has ended. -/

namespace Sys2Proof.Machine

/-! ### Legal states -/

/-- BUSADDR is hardwired to `DEV_ADDR` (10_state.md R23); FATAL_CAUSE is 0 while running and a fatal code
while halted (R27); a halted block is inside no command (60_exceptions.md R229). -/
def State.Legal (s : State) : Prop :=
  s.busaddr = s.cfg.devAddr ∧
  match s.mode with
  | .run => s.fatalCause = 0x00
  | .halted => (s.fatalCause = 0x80 ∨ s.fatalCause = 0x81) ∧ s.seq = none

/-! ### Legal observations -/

/-- Where a block is between two events of its observation. -/
inductive Phase where
  /-- Waiting for a frame. -/
  | idle
  /-- Inside a command, every transaction of it so far `Ok`. -/
  | busy
  /-- Inside a command of which a transaction has failed. -/
  | failed
  /-- Inside a command of which a transaction has stalled. -/
  | stalled
  /-- Halted with this cause, waiting for a frame. -/
  | halted (cause : Byte)
  /-- Halted with this cause, a frame not yet answered. -/
  | haltedBusy (cause : Byte)
deriving DecidableEq, Repr

/-- Where a transaction's outcome leaves a block that is inside a command: the next transaction is issued
only after an `Ok` (20_memory.md R47, 60_exceptions.md R225, R232). -/
def Phase.afterOutcome : BusOutcome → Phase
  | .ok _ => .busy
  | .fail => .failed
  | .stall => .stalled

/-- A write outcome of R57: an `Ok` carries no bytes. -/
def legalWrite (v : List Byte) (o : BusOutcome) : Bool :=
  decide (1 ≤ v.length ∧ v.length ≤ 256) && decide (o = writeOutcome o)

/-- A read outcome of R45: an `Ok` carries exactly n bytes. -/
def legalRead (n : Nat) (o : BusOutcome) : Bool :=
  decide (1 ≤ n ∧ n ≤ 255) && decide (o = readOutcome n o)

/-- Where a response leaves a block that has met no failure: a fatal format error halts it, any other
response of R78 that such a block can give leaves it waiting. -/
def Phase.afterResponse : Frame → Option Phase
  | [] => none
  | st :: payload =>
    if st = 0x00 ∨ st = 0x01 then some .idle
    else if (st = 0x02 ∨ st = 0x03) ∧ payload = [] then some .idle
    else if st = 0x81 ∧ payload = [] then some (.halted 0x81)
    else none

/-- The events that each phase admits, and where they lead (R47, R57, 60_exceptions.md R220). -/
def Phase.next : Phase → Event → Option Phase
  | _, .reset => some .idle
  | .idle, .cmd _ => some .busy
  | .busy, .write _ v o => if legalWrite v o then some (.afterOutcome o) else none
  | .busy, .read _ n o => if legalRead n o then some (.afterOutcome o) else none
  | .busy, .resp f => Phase.afterResponse f
  | .failed, .resp f => if f = [0x80] then some (.halted 0x80) else none
  | .halted c, .cmd _ => some (.haltedBusy c)
  | .haltedBusy c, .resp f => if f = [0x82] then some (.halted c) else none
  | _, _ => none

/-- The phase after a sequence of events, where every one of them was admitted. -/
def Phase.run : Phase → List Event → Option Phase
  | p, [] => some p
  | p, e :: es =>
    match p.next e with
    | none => none
    | some q => q.run es

/-- The phase that a state shows. -/
def State.phase (s : State) : Phase :=
  match s.mode with
  | .halted => .halted s.fatalCause
  | .run =>
    match s.seq with
    | none => .idle
    | some _ => .stalled

/-- The observation is legal from an idle block on, and leads to the phase that the state shows. -/
def State.ObservationLegal (s : State) : Prop := Phase.idle.run s.trace = some s.phase

/-- The events after the last reset. -/
def sinceReset (es : List Event) : List Event :=
  es.foldl (fun acc e => if e = .reset then [] else acc ++ [e]) []

/-- The two setup writes of 41_driver_config.md R130, completed. -/
def setupWrites (a : Addr) : List Event :=
  [.write a [0x80, 0x03] (.ok []), .write a [0x81, 0x2B] (.ok [])]

/-- INIT is set only where both setup writes have been completed since the last reset (10_state.md
R22). -/
def State.SetupWritten (s : State) : Prop :=
  s.init = true → setupWrites s.busaddr <:+: sinceReset s.trace

/-- No reset is asserted inside the command delivered next. -/
def undisturbed (rest : List HostInput) : Bool :=
  match rest with
  | .resetDuring _ :: _ => false
  | _ => true

/-! ### Outcomes and the bytes read -/

/-- An answer that completes a write transaction. -/
def isOk (o : BusOutcome) : Bool :=
  match o with
  | .ok _ => true
  | .fail => false
  | .stall => false

/-- The bytes that a completed read transaction returned (20_memory.md R45). -/
def Event.bytesRead : Event → Option (List Byte)
  | .cmd _ => none
  | .write _ _ _ => none
  | .read _ _ (.ok d) => some d
  | .read _ _ .fail => none
  | .read _ _ .stall => none
  | .resp _ => none
  | .reset => none

/-- The values read in a sequence of events, in their order (10_state.md R34). -/
def readValues (es : List Event) : List (List Byte) := es.filterMap Event.bytesRead

/-! ### Bus scripts (30_encoding.md R80) -/

/-- A transaction that a rule lists. -/
inductive Txn where
  | write (a : Addr) (v : List Byte)
  | read (a : Addr) (n : Nat)
deriving DecidableEq, Repr

/-- The outcome of a listed transaction, from the environment's answer (20_memory.md R45). -/
def Txn.outcome : Txn → BusOutcome → BusOutcome
  | .write _ _, o => writeOutcome o
  | .read _ n, o => readOutcome n o

/-- The event of a listed transaction (R57). -/
def Txn.event : Txn → BusOutcome → Event
  | .write a v, o => .write a v o
  | .read a n, o => .read a n o

/-- The transactions of EnsureSetup: none once INIT is set (41_driver_config.md R130). -/
def setupScript (s : State) : List Txn :=
  if s.init then [] else [.write s.busaddr [0x80, 0x03], .write s.busaddr [0x81, 0x2B]]

/-- The transactions of ReadChannels after EnsureSetup (42_readout.md R160). -/
def channelScript (s : State) : List Txn := [.write s.busaddr [0xB4], .read s.busaddr 8]

/-- The table of R80: the transactions of a command, each `Ok` so far, in order. -/
def commandScript (s : State) : Instr → List Txn
  | .wrreg a r v => [.write a [r, v]]
  | .wrbuf a r data => [.write a (r :: data)]
  | .rdbuf a r len => [.write a [r], .read a len.toNat]
  | .decode _ _ => []
  | .setup => setupScript s
  | .setitime t =>
    setupScript s ++ [.write s.busaddr [0x81, timingByte s.cfg.itimeRound t.toInt]]
  | .setparam _ _ _ => []
  | .raw => setupScript s ++ channelScript s
  | .light => setupScript s ++ channelScript s
  | .rgb => setupScript s ++ channelScript s
  | .color => setupScript s ++ channelScript s ++ channelScript s
  | .getred => setupScript s ++ channelScript s
  | .getgreen => setupScript s ++ channelScript s
  | .getblue => setupScript s ++ channelScript s

/-- How a script ends. -/
inductive ScriptEnd where
  | done
  | failed
  | stalled
deriving DecidableEq, Repr

/-- The events of a script whose first transaction gets the k-th answer from `s`, up to and with the
first that is not `Ok`, and how it ends (20_memory.md R47, 40_adapter.md R109). -/
def playScript (s : State) : Nat → List Txn → List Event × ScriptEnd
  | _, [] => ([], .done)
  | k, t :: ts =>
    match t.outcome (s.drawAt k) with
    | .ok d => (t.event (.ok d) :: (playScript s (k + 1) ts).1, (playScript s (k + 1) ts).2)
    | .fail => ([t.event .fail], .failed)
    | .stall => ([t.event .stall], .stalled)

/-- The commands that call EnsureSetup first (41_driver_config.md R131). -/
def callsSetup : Instr → Bool
  | .wrreg _ _ _ => false
  | .wrbuf _ _ _ => false
  | .rdbuf _ _ _ => false
  | .decode _ _ => false
  | .setup => true
  | .setitime _ => true
  | .setparam _ _ _ => false
  | .raw => true
  | .light => true
  | .rgb => true
  | .color => true
  | .getred => true
  | .getgreen => true
  | .getblue => true

/-- INIT once a command from `s` has ended or stalled: it is set by the completion of both setup writes,
whatever the command's later transactions do (41_driver_config.md R130). -/
def initAfter (s : State) (i : Instr) : Bool :=
  s.init || (callsSetup i && isOk (s.drawAt 0) && isOk (s.drawAt 1))

/-- The adapter's commands (40_adapter.md R100). -/
def isAdapter : Instr → Bool
  | .wrreg _ _ _ => true
  | .wrbuf _ _ _ => true
  | .rdbuf _ _ _ => true
  | .decode _ _ => true
  | .setup => false
  | .setitime _ => false
  | .setparam _ _ _ => false
  | .raw => false
  | .light => false
  | .rgb => false
  | .color => false
  | .getred => false
  | .getgreen => false
  | .getblue => false

/-! ### The state an ended command leaves -/

/-- `s` after a command that issued n transactions, produced the events `es` and ended: nothing but the
answers used up and the observation differs, and the sequencer is empty. -/
def State.afterCommand (s : State) (n : Nat) (es : List Event) : State :=
  { s with
    answers := s.answers.drop n
    drawn := s.drawn + n
    seq := none
    trace := s.trace ++ es }

/-- `s` after a command that issued n transactions, the last of which failed (60_exceptions.md R225,
R229): as `afterCommand`, and halted with FATAL_BUS. -/
def State.afterFailure (s : State) (n : Nat) (es : List Event) : State :=
  { s.afterCommand n (es ++ [.resp [0x80]]) with mode := .halted, fatalCause := 0x80 }

/-- `s` inside a command whose n-th transaction stalled (R232), its reads so far having returned
`values`. -/
def State.afterStall (s : State) (i : Instr) (n : Nat) (values : List (List Byte))
    (es : List Event) : State :=
  { s.afterCommand n es with seq := some { command := i, issued := n, values := values } }

/-- The number of transactions EnsureSetup issues from `s` (41_driver_config.md R130). -/
def setupCount (s : State) : Nat := if s.init then 0 else 2

/-- The events of EnsureSetup from `s` where its transactions are `Ok` (R130). -/
def setupEvents (s : State) : List Event := if s.init then [] else setupWrites s.busaddr

/-- The answers from `s` on complete the transactions of EnsureSetup. -/
def setupOk (s : State) : Prop := ∀ k < setupCount s, isOk (s.drawAt k) = true

/-- The k-th and the next answer from `s` complete a channel read that returns `d` (42_readout.md
R160). -/
def readOk (s : State) (k : Nat) (d : List Byte) : Prop :=
  isOk (s.drawAt k) = true ∧ s.drawAt (k + 1) = .ok d ∧ d.length = 8

/-- The events of a channel read that returns `d` (R160). -/
def channelEvents (s : State) (d : List Byte) : List Event :=
  [.write s.busaddr [0xB4] (.ok []), .read s.busaddr 8 (.ok d)]

/-- `s` after a read-out command that read `d` and answered `f` (R160): INIT is set. -/
def State.afterReadout (s : State) (d : List Byte) (f : Frame) : State :=
  { s.afterCommand (setupCount s + 2) (setupEvents s ++ channelEvents s d ++ [.resp f]) with
    init := true }

/-- `bytes[2i] | (bytes[2i+1] << 8)` (20_memory.md R50). -/
def word16 (d : List Byte) (i : Nat) : Nat :=
  (d.getD (2 * i) 0).toNat ||| (d.getD (2 * i + 1) 0).toNat <<< 8

/-- The channel counts in the bytes of a channel read (R50). -/
def channelWords (d : List Byte) : Channels :=
  { clear := word16 d 0, red := word16 d 1, green := word16 d 2, blue := word16 d 3 }

/-! ### Frames that carry no command (30_encoding.md R75 to R77) -/

/-- An empty frame, or one whose opcode is unassigned (R77, 60_exceptions.md R222). -/
def noCommand (f : Frame) : Prop :=
  f = [] ∨ ∃ op rest, f = op :: rest ∧ ∀ row ∈ opcodeTable, row.opcode ≠ op

/-- A frame of an assigned opcode whose length is not what its format gives, whose address is above
0x7F, or that reads no byte (R75, R76, 60_exceptions.md R223). -/
def badOperand (f : Frame) : Prop :=
  ∃ row ∈ opcodeTable, f.head? = some row.opcode ∧
    (row.format.frameLength f ≠ some f.length ∨
      ((row.format = .WB ∨ row.format = .WN ∨ row.format = .RB) ∧
        ∃ a, f[1]? = some a ∧ 0x7F < a.toNat) ∨
      (row.format = .RB ∧ f[3]? = some 0))

/-- A running block answers the frame ILLEGAL_OPERAND, and nothing else happens (R76, R223). -/
def refusedOperands (f : Frame) : Prop :=
  ∀ (s : State) (rest : List HostInput),
    s.mode = .run → s.seq = none → s.inputs = .command f :: rest → undisturbed rest = true →
    step s = .next { s with inputs := rest, trace := s.trace ++ [.cmd f, .resp [0x03]] }

/-! ### Formats of DECODE (40_adapter.md R106 to R108) -/

/-- An endianness marker (R107). -/
def isMarker (c : Byte) : Bool := decide (c = 0x3C ∨ c = 0x3E)

/-- A data field character (R106). -/
def isField (c : Byte) : Bool := decide (c = 0x62 ∨ c = 0x42 ∨ c = 0x68 ∨ c = 0x48)

/-- The number of bytes a format character consumes (R106, R107). -/
def charWidth (c : Byte) : Nat :=
  if c = 0x62 ∨ c = 0x42 then 1 else if c = 0x68 ∨ c = 0x48 then 2 else 0

/-- The number of bytes that the fields of a format consume. -/
def formatWidth (fmt : List Byte) : Nat := (fmt.map charWidth).sum

/-- The column "value range" of R106. -/
def inFieldRange (c : Byte) (v : Int) : Prop :=
  (c = 0x62 → -128 ≤ v ∧ v ≤ 127) ∧ (c = 0x42 → 0 ≤ v ∧ v ≤ 255) ∧
    (c = 0x68 → -32768 ≤ v ∧ v ≤ 32767) ∧ (c = 0x48 → 0 ≤ v ∧ v ≤ 65535)

/-! ### The classifier's branches (43_color.md R192, R195) -/

/-- The low-spread test of R192. -/
def lowSpread (p : ClassParams) (ch : Channels) : Prop :=
  255 * (max (max (ch.red : Int) ch.green) ch.blue - min (min (ch.red : Int) ch.green) ch.blue) <
    p.hyst * ch.clear

/-- Σ of R192. -/
def channelSum (ch : Channels) : Int := ch.red + ch.green + ch.blue

end Sys2Proof.Machine
end

