-- ==== Sys2Proof/Certificates/Slice0/Obligations.lean ====
section
/-! DEFINITION. The statements for the provers, each formalising what a rule of spec/ says or following
from such rules. -/

open Sys2Proof Sys2Proof.Machine

/-! ### Frames -/

/-- 30_encoding.md R71 to R74: the decoder reads back every well-formed command, every operand at every
value. -/
def Obligations.DecodeReadsBackEveryEncodedCommand : Prop :=
  ∀ i : Instr, i.wf = true → decode (encode i) = .ok i

/-- 30_encoding.md R71 to R76: a frame that carries a command is that command's only frame. -/
def Obligations.DecodedFrameIsTheCommandsFrame : Prop :=
  ∀ (f : Frame) (i : Instr), decode f = .ok i → i.wf = true ∧ encode i = f

/-- 30_encoding.md R72 to R74: frames written out from the formats decode to their commands. -/
def Obligations.WrittenOutFramesDecode : Prop :=
  decode [0x01, 0x29, 0x80, 0x03] = .ok (.wrreg 0x29 0x80 0x03) ∧
  decode [0x02, 0x29, 0x81, 0x01, 0xC0] = .ok (.wrbuf 0x29 0x81 [0xC0]) ∧
  decode [0x03, 0x29, 0xB4, 0x08] = .ok (.rdbuf 0x29 0xB4 8) ∧
  decode [0x04, 0x01, 0x62, 0x01, 0xFF] = .ok (.decode [0x62] [0xFF]) ∧
  decode [0x11, 0xFF, 0xFF, 0xFF, 0x7F] = .ok (.setitime 2147483647) ∧
  decode [0x12, 0xF4, 0x01, 0, 0, 0x0A, 0, 0, 0, 0xB0, 0x04, 0, 0] = .ok (.setparam 500 10 1200) ∧
  decode [0x23] = .ok .color

/-- 30_encoding.md R75 to R77: which frames the decoder refuses, and as what; it accepts every other
frame. -/
def Obligations.DecoderRefusesExactlyIllegalFrames : Prop :=
  ∀ f : Frame,
    (decode f = .error .illegalCommand ↔ noCommand f) ∧
    (decode f = .error .illegalOperand ↔ badOperand f)

/-! ### The host port and the common checks -/

/-- 60_exceptions.md R222. -/
def Obligations.UnassignedOpcodeAnswersIllegalCommand : Prop :=
  ∀ (s : State) (f : Frame) (rest : List HostInput),
    s.mode = .run → s.seq = none → s.inputs = .command f :: rest → undisturbed rest = true →
    noCommand f →
    step s =
      .next { s with inputs := rest, trace := s.trace ++ [.cmd f, .resp [0x02]] }

/-- 60_exceptions.md R223. -/
def Obligations.BadFrameAnswersIllegalOperand : Prop :=
  ∀ (s : State) (f : Frame) (rest : List HostInput),
    s.mode = .run → s.seq = none → s.inputs = .command f :: rest → undisturbed rest = true →
    badOperand f →
    step s =
      .next { s with inputs := rest, trace := s.trace ++ [.cmd f, .resp [0x03]] }

/-- 60_exceptions.md R227: in the step, for every frame, and in the meaning of every command. -/
def Obligations.HaltedBlockAnswersHalted : Prop :=
  (∀ (s : State) (f : Frame) (rest : List HostInput),
    s.mode = .halted → s.seq = none → s.inputs = .command f :: rest → undisturbed rest = true →
    step s =
      .next { s with inputs := rest, trace := s.trace ++ [.cmd f, .resp [0x82]] }) ∧
  (∀ (i : Instr) (s : State), s.mode = .halted →
    exec i s = .next (s.afterCommand 0 [.resp [0x82]]))

/-- 30_encoding.md R76, 60_exceptions.md R223: a command whose operands are not legal has no effect of its
own in any form. For a byte string of more than 255 bytes, which no frame can carry, this is the model's
choice (log entry 7). -/
def Obligations.IllFormedCommandAnswersIllegalOperand : Prop :=
  ∀ (i : Instr) (s : State), s.mode = .run → i.wf = false →
    exec i s = .next (s.afterCommand 0 [.resp [0x03]])

/-- 30_encoding.md R70, 60_exceptions.md R228: a delivered frame that decodes is executed; around its
meaning the step takes the frame from the host and observes it. -/
def Obligations.StepRunsTheDecodedCommand : Prop :=
  ∀ (s : State) (f : Frame) (rest : List HostInput) (i : Instr),
    s.mode = .run → s.seq = none → s.inputs = .command f :: rest → undisturbed rest = true →
    decode f = .ok i →
    step s = exec i { s with inputs := rest, trace := s.trace ++ [.cmd f] }

/-- 60_exceptions.md R220: every outcome is a state of the block; no step stops the machine. -/
def Obligations.EveryStepHasANextState : Prop :=
  ∀ s : State, ∃ t : State, step s = .next t

/-- 00_scope.md R4, 60_exceptions.md R232, 70_reset_and_hazards.md R260: with no input the block does
nothing of its own, and a frame does not move a stalled block (the form of the inputs is the model's:
log entries 3 and 10). -/
def Obligations.RestingBlockDoesNotMove : Prop :=
  (∀ s : State, s.inputs = [] → step s = .next s) ∧
  (∀ (s : State) (f : Frame) (rest : List HostInput) (p : SeqPos),
    s.inputs = .command f :: rest → s.seq = some p → step s = .next s)

/-! ### Reset and the fatal state -/

/-- 70_reset_and_hazards.md R250: the reset input from any state, halted or stalled included, and the
value of `DEV_ADDR` for this hardware. -/
def Obligations.ResetInputRestoresResetValues : Prop :=
  Config.hardware.devAddr = 0x29 ∧
  ∀ (s : State) (rest : List HostInput), s.inputs = .reset :: rest →
    step s =
      .next
        { s with
          mode := .run, init := false, busaddr := s.cfg.devAddr, blackLimit := 1000, hyst := 25
          offset := 1100, fatalCause := 0x00, seq := none, inputs := rest
          trace := s.trace ++ [.reset] }

/-- 70_reset_and_hazards.md R251: a reset that lands before the last event of a command keeps the
transactions up to there and nothing else: no response, no further transaction, and the reset values. One
that lands at or after its last event finds the command ended or stalled, and its events stay. The form of
the input, and that a transaction in flight leaves no event and uses up no answer, are the model's (log
entry 5). -/
def Obligations.ResetInsideCommandAbortsIt : Prop :=
  ∀ (s t : State) (f : Frame) (rest : List HostInput) (k : Nat) (i : Instr),
    s.mode = .run → s.seq = none → s.inputs = .command f :: .resetDuring k :: rest →
    decode f = .ok i →
    exec i { s with inputs := .resetDuring k :: rest, trace := s.trace ++ [.cmd f] } = .next t →
    ∃ (es : List Event) (u : State),
      t.trace = s.trace ++ [.cmd f] ++ es ∧ step s = .next u ∧
      u.trace = s.trace ++ [.cmd f] ++ es.take k ++ [.reset] ∧
      u.mode = .run ∧ u.init = false ∧ u.busaddr = s.cfg.devAddr ∧ u.blackLimit = 1000 ∧
      u.hyst = 25 ∧ u.offset = 1100 ∧ u.fatalCause = 0x00 ∧ u.seq = none ∧ u.inputs = rest ∧
      u.cfg = s.cfg ∧
      (k < es.length →
        (∀ e ∈ es.take k, e.isTransaction = true) ∧ u.answers = s.answers.drop k ∧
          u.drawn = s.drawn + k) ∧
      (es.length ≤ k → u.answers = t.answers ∧ u.drawn = t.drawn)

/-- 70_reset_and_hazards.md R252, the spec's own inference: after a reset the first command that needs
the device begins with the first setup write again. -/
def Obligations.FirstDriverCommandAfterResetRepeatsSetup : Prop :=
  ∀ (i : Instr) (s t : State), callsSetup i = true → exec i (resetBlock s) = .next t →
    ∃ (o : BusOutcome) (es : List Event),
      t.trace = s.trace ++ .reset :: .write s.cfg.devAddr [0x80, 0x03] o :: es ∧
      (isOk o = true → ∃ (o' : BusOutcome) (es' : List Event),
        es = .write s.cfg.devAddr [0x81, 0x2B] o' :: es')

/-- 60_exceptions.md R229. -/
def Obligations.FatalEntryHaltsWithItsCause : Prop :=
  ∀ (st : Status) (s : State),
    fatalEntry st s =
      { s with
        mode := .halted, fatalCause := st.code, seq := none
        trace := s.trace ++ [.resp [st.code]] }

/-- 60_exceptions.md R231: what one step makes of a halted block: the same block, one that has answered
HALTED, or a reset one, with no transaction on the way. -/
def Obligations.OnlyResetLeavesHalted : Prop :=
  ∀ s t : State, s.mode = .halted → step s = .next t →
    t = s ∨
    (∃ (f : Frame) (rest : List HostInput),
      s.inputs = .command f :: rest ∧
      t = { s with inputs := rest, trace := s.trace ++ [.cmd f, .resp [0x82]] }) ∨
    (t.mode = .run ∧ ∃ es : List Event,
      t.trace = s.trace ++ es ++ [.reset] ∧ ∀ e ∈ es, e.isTransaction = false)

/-! ### Invariants -/

/-- The reset state meets every invariant below (70_reset_and_hazards.md R250). -/
def Obligations.ResetStateMeetsTheInvariants : Prop :=
  State.reset.Legal ∧ State.reset.ObservationLegal ∧ State.reset.SetupWritten

/-- 10_state.md R21, R23, R27: BUSADDR stays hardwired, and MODE and FATAL_CAUSE stay together. -/
def Obligations.StepKeepsTheStateLegal : Prop :=
  ∀ s t : State, s.Legal → step s = .next t → t.Legal

/-- 20_memory.md R44, R45, R47, R57, 60_exceptions.md R220: every event is one that the phase of the
block admits (no transaction after a failed or stalled one, transaction lengths in bounds, one response
a command, HALTED answered by a halted block), and the state shows the phase the observation ends in. -/
def Obligations.StepKeepsTheObservationLegal : Prop :=
  ∀ s t : State, s.ObservationLegal → step s = .next t → t.ObservationLegal

/-- 10_state.md R22, 41_driver_config.md R130: INIT is never set without both setup writes completed
since the last reset. -/
def Obligations.StepKeepsInitBehindSetupWrites : Prop :=
  ∀ s t : State, s.SetupWritten → step s = .next t → t.SetupWritten

/-! ### Every command -/

/-- 30_encoding.md R80, 20_memory.md R46, R47, 40_adapter.md R109: a command puts its listed transactions
on the bus, in order, up to the first that is not `Ok`, and nothing else; then it answers, halts with
FATAL_BUS, or stays stalled with its position and the values read so far (10_state.md R34). In each case
INIT is what the setup writes made it (41_driver_config.md R130). -/
def Obligations.BusTrafficFollowsTheCommandsScript : Prop :=
  ∀ (i : Instr) (s : State), s.mode = .run → i.wf = true →
    ∃ t : State, exec i s = .next t ∧
      let es := (playScript s 0 (commandScript s i)).1
      match (playScript s 0 (commandScript s i)).2 with
      | .done =>
        (∃ (st : Status) (payload : List Byte),
          t.trace = s.trace ++ es ++ [.resp (st.code :: payload)] ∧
          st ≠ .fatalBus ∧ st ≠ .halted) ∧
        t.answers = s.answers.drop es.length ∧ t.drawn = s.drawn + es.length ∧ t.seq = none ∧
        t.init = initAfter s i
      | .failed => t = { s.afterFailure es.length es with init := initAfter s i }
      | .stalled =>
        t = { s.afterStall i es.length (readValues es) es with init := initAfter s i }

/-- The write matrix of 10_state.md R29, an inference the spec marks as its own: which command may change
which field, whatever its outcome. -/
def Obligations.CommandsWriteOnlyTheirFields : Prop :=
  ∀ (i : Instr) (s t : State), exec i s = .next t →
    t.cfg = s.cfg ∧ t.busaddr = s.busaddr ∧ t.inputs = s.inputs ∧
    ((t.blackLimit = s.blackLimit ∧ t.hyst = s.hyst ∧ t.offset = s.offset) ∨
      i = .setparam t.blackLimit t.hyst t.offset) ∧
    (t.init = s.init ∨ (s.init = false ∧ t.init = true ∧ callsSetup i = true)) ∧
    ((t.mode = s.mode ∧ t.fatalCause = s.fatalCause) ∨
      (s.mode = .run ∧ t.mode = .halted ∧ t.fatalCause = 0x80 ∧ commandScript s i ≠ []) ∨
      (s.mode = .run ∧ t.mode = .halted ∧ t.fatalCause = 0x81 ∧
        ∃ fmt data : List Byte, i = .decode fmt data)) ∧
    (s.mode = .halted →
      t.mode = s.mode ∧ t.fatalCause = s.fatalCause ∧ t.init = s.init ∧
      t.blackLimit = s.blackLimit ∧ t.hyst = s.hyst ∧ t.offset = s.offset)

/-! ### The adapter -/

/-- 40_adapter.md R100: what an adapter command does is the same whatever INIT, BUSADDR and the
classification parameters are, it leaves them as they were, and its only state effect is fatal entry. -/
def Obligations.AdapterCommandsIgnoreDriverState : Prop :=
  ∀ (i : Instr) (s t : State) (init : Bool) (addr : Addr) (bl hy off : S32),
    isAdapter i = true → exec i s = .next t →
    exec i
      { s with init := init, busaddr := addr, blackLimit := bl, hyst := hy, offset := off } =
      .next
        { t with init := init, busaddr := addr, blackLimit := bl, hyst := hy, offset := off } ∧
    t.init = s.init ∧ t.busaddr = s.busaddr ∧ t.blackLimit = s.blackLimit ∧ t.hyst = s.hyst ∧
    t.offset = s.offset ∧
    ((t.mode = s.mode ∧ t.fatalCause = s.fatalCause) ∨
      (t.mode = .halted ∧ (t.fatalCause = 0x80 ∨ t.fatalCause = 0x81)))

/-- 40_adapter.md R101: WRREG on each outcome of its write, its frame, and the frames refused. -/
def Obligations.WrregWritesOneRegisterByte : Prop :=
  (∀ (a : Addr) (r v : Byte) (s : State), s.mode = .run →
    encode (.wrreg a r v) = [0x01, a.setWidth 8, r, v] ∧
    (isOk (s.drawAt 0) = true →
      exec (.wrreg a r v) s =
        .next (s.afterCommand 1 [.write a [r, v] (.ok []), .resp [0x00]])) ∧
    (s.drawAt 0 = .fail →
      exec (.wrreg a r v) s = .next (s.afterFailure 1 [.write a [r, v] .fail])) ∧
    (s.drawAt 0 = .stall →
      exec (.wrreg a r v) s =
        .next (s.afterStall (.wrreg a r v) 1 [] [.write a [r, v] .stall]))) ∧
  (∀ rest : List Byte,
    (rest.length ≠ 3 ∨ ∃ a, rest.head? = some a ∧ 0x7F < a.toNat) →
    refusedOperands (0x01 :: rest))

/-- 40_adapter.md R102: WRBUF sends its register byte and its data, n = 0 included, as one
transaction. -/
def Obligations.WrbufWritesOneTransaction : Prop :=
  (∀ (a : Addr) (r : Byte) (data : List Byte) (s : State),
    s.mode = .run → data.length ≤ 255 →
    encode (.wrbuf a r data) =
      0x02 :: a.setWidth 8 :: r :: BitVec.ofNat 8 data.length :: data ∧
    (isOk (s.drawAt 0) = true →
      exec (.wrbuf a r data) s =
        .next (s.afterCommand 1 [.write a (r :: data) (.ok []), .resp [0x00]])) ∧
    (s.drawAt 0 = .fail →
      exec (.wrbuf a r data) s = .next (s.afterFailure 1 [.write a (r :: data) .fail])) ∧
    (s.drawAt 0 = .stall →
      exec (.wrbuf a r data) s =
        .next (s.afterStall (.wrbuf a r data) 1 [] [.write a (r :: data) .stall]))) ∧
  (∀ rest : List Byte,
    ((∀ n, rest[2]? = some n → rest.length ≠ 3 + n.toNat) ∨
      ∃ a, rest.head? = some a ∧ 0x7F < a.toNat) →
    refusedOperands (0x02 :: rest))

/-- 40_adapter.md R103: RDBUF selects, then reads in a separate transaction; a failed select issues no
read, and no bytes are returned from a failed read. -/
def Obligations.RdbufSelectsThenReads : Prop :=
  (∀ (a : Addr) (r len : Byte) (s : State), s.mode = .run → 1 ≤ len.toNat →
    encode (.rdbuf a r len) = [0x03, a.setWidth 8, r, len] ∧
    (∀ d : List Byte, isOk (s.drawAt 0) = true → s.drawAt 1 = .ok d → d.length = len.toNat →
      exec (.rdbuf a r len) s =
        .next (s.afterCommand 2
          [.write a [r] (.ok []), .read a len.toNat (.ok d), .resp (0x00 :: d)])) ∧
    (s.drawAt 0 = .fail →
      exec (.rdbuf a r len) s = .next (s.afterFailure 1 [.write a [r] .fail])) ∧
    (isOk (s.drawAt 0) = true → readOutcome len.toNat (s.drawAt 1) = .fail →
      exec (.rdbuf a r len) s =
        .next (s.afterFailure 2 [.write a [r] (.ok []), .read a len.toNat .fail])) ∧
    (s.drawAt 0 = .stall →
      exec (.rdbuf a r len) s =
        .next (s.afterStall (.rdbuf a r len) 1 [] [.write a [r] .stall])) ∧
    (isOk (s.drawAt 0) = true → s.drawAt 1 = .stall →
      exec (.rdbuf a r len) s =
        .next (s.afterStall (.rdbuf a r len) 2 []
          [.write a [r] (.ok []), .read a len.toNat .stall]))) ∧
  (∀ rest : List Byte,
    (rest.length ≠ 3 ∨ (∃ a, rest.head? = some a ∧ 0x7F < a.toNat) ∨ rest[2]? = some 0) →
    refusedOperands (0x03 :: rest))

/-- 40_adapter.md R104: DECODE answers the values of the decoder without a transaction, or halts the
block where the decoder raises FATAL_FORMAT; its frame, and the frames refused. -/
def Obligations.DecodeAnswersTheValuesOrHalts : Prop :=
  (∀ (fmt data : List Byte) (s : State),
    s.mode = .run → fmt.length ≤ 255 → data.length ≤ 255 →
    encode (.decode fmt data) =
      0x04 :: BitVec.ofNat 8 fmt.length ::
        (fmt ++ BitVec.ofNat 8 data.length :: data) ∧
    (∀ vals : List Int, decodeFormat fmt data = some vals →
      vals.length ≤ fmt.length ∧
      exec (.decode fmt data) s =
        .next (s.afterCommand 0
          [.resp (0x00 :: BitVec.ofNat 8 vals.length :: vals.flatMap s32le)])) ∧
    (decodeFormat fmt data = none →
      exec (.decode fmt data) s =
        .next { s.afterCommand 0 [.resp [0x81]] with mode := .halted, fatalCause := 0x81 })) ∧
  (∀ rest : List Byte,
    (∀ flen blen, rest[0]? = some flen → rest[1 + flen.toNat]? = some blen →
      rest.length ≠ 2 + flen.toNat + blen.toNat) →
    refusedOperands (0x04 :: rest))

/-- 40_adapter.md R107: the markers, the order before any marker, 8-bit fields, which give the same value
in both orders and leave the order in force to the fields after them, and both orders on 16-bit fields. -/
def Obligations.MarkersSetTheByteOrderOfLaterFields : Prop :=
  (∀ (le : Bool) (fmt data : List Byte),
    scanFormat le (0x3C :: fmt) data = scanFormat true fmt data ∧
    scanFormat le (0x3E :: fmt) data = scanFormat false fmt data ∧
    decodeFormat fmt data = scanFormat true fmt data ∧
    ((∀ c ∈ fmt, c = 0x62 ∨ c = 0x42) → scanFormat le fmt data = decodeFormat fmt data)) ∧
  (∀ (le : Bool) (fmt : List Byte) (x : Byte) (data : List Byte),
    scanFormat le (0x42 :: fmt) (x :: data) =
      (scanFormat le fmt data).map ((x.toNat : Int) :: ·) ∧
    scanFormat le (0x62 :: fmt) (x :: data) = (scanFormat le fmt data).map (x.toInt :: ·)) ∧
  (∀ (fmt : List Byte) (x y : Byte) (data : List Byte),
    scanFormat true (0x48 :: fmt) (x :: y :: data) =
      (scanFormat true fmt data).map (((x.toNat + 256 * y.toNat : Nat) : Int) :: ·) ∧
    scanFormat false (0x48 :: fmt) (x :: y :: data) =
      (scanFormat false fmt data).map (((256 * x.toNat + y.toNat : Nat) : Int) :: ·) ∧
    scanFormat true (0x68 :: fmt) (x :: y :: data) =
      (scanFormat true fmt data).map ((y ++ x).toInt :: ·) ∧
    scanFormat false (0x68 :: fmt) (x :: y :: data) =
      (scanFormat false fmt data).map ((x ++ y).toInt :: ·))

/-- 40_adapter.md R108: the decoder raises FATAL_FORMAT exactly for an unrecognised character or too few
bytes, and bytes beyond the last field change nothing. -/
def Obligations.FormatErrorsAreUnknownCharactersAndShortData : Prop :=
  (∀ fmt data : List Byte,
    decodeFormat fmt data = none ↔
      (∃ c ∈ fmt, isMarker c = false ∧ isField c = false) ∨ data.length < formatWidth fmt) ∧
  (∀ (fmt data extra : List Byte) (vals : List Int),
    decodeFormat fmt data = some vals → decodeFormat fmt (data ++ extra) = some vals)

/-- 40_adapter.md R106: one value for each field character, in its range. -/
def Obligations.DecodedValuesLieInTheirFieldsRanges : Prop :=
  ∀ (fmt data : List Byte) (vals : List Int), decodeFormat fmt data = some vals →
    List.Forall₂ inFieldRange (fmt.filter isField) vals

/-! ### Setup and configuration -/

/-- 41_driver_config.md R132, with EnsureSetup's transition of R130: SETUP on each outcome of its
writes. -/
def Obligations.SetupWritesTheDeviceOnce : Prop :=
  encode .setup = [0x10] ∧
  ∀ s : State, s.mode = .run →
    (s.init = true → exec .setup s = .next (s.afterCommand 0 [.resp [0x00]])) ∧
    (s.init = false →
      (isOk (s.drawAt 0) = true → isOk (s.drawAt 1) = true →
        exec .setup s =
          .next { s.afterCommand 2 (setupWrites s.busaddr ++ [.resp [0x00]]) with init := true }) ∧
      (s.drawAt 0 = .fail →
        exec .setup s = .next (s.afterFailure 1 [.write s.busaddr [0x80, 0x03] .fail])) ∧
      (isOk (s.drawAt 0) = true → s.drawAt 1 = .fail →
        exec .setup s =
          .next (s.afterFailure 2
            [.write s.busaddr [0x80, 0x03] (.ok []), .write s.busaddr [0x81, 0x2B] .fail])) ∧
      (s.drawAt 0 = .stall →
        exec .setup s =
          .next (s.afterStall .setup 1 [] [.write s.busaddr [0x80, 0x03] .stall])) ∧
      (isOk (s.drawAt 0) = true → s.drawAt 1 = .stall →
        exec .setup s =
          .next (s.afterStall .setup 2 []
            [.write s.busaddr [0x80, 0x03] (.ok []), .write s.busaddr [0x81, 0x2B] .stall])))

/-- 41_driver_config.md R133, an inference the spec marks as its own: n SETUP commands issue the two
setup writes once, for every n ≥ 1. -/
def Obligations.RepeatedSetupWritesTwiceInAll : Prop :=
  ∀ (n : Nat) (s : State),
    s.mode = .run → s.seq = none → s.init = false →
    s.inputs = List.replicate (n + 1) (.command [0x10]) →
    isOk (s.drawAt 0) = true → isOk (s.drawAt 1) = true →
    Host.Core.run Sys2Proof.core (n + 1) s =
      .next
        { s with
          init := true, inputs := [], answers := s.answers.drop 2, drawn := s.drawn + 2
          trace :=
            s.trace ++ .cmd [0x10] :: (setupWrites s.busaddr ++
              .resp [0x00] :: (List.replicate n [.cmd [0x10], .resp [0x00]]).flatten) }

/-- 41_driver_config.md R134: the tick count under both values of `ITIME_ROUND`, from the exact quotient,
and where the two agree. -/
def Obligations.TicksFollowTheExactQuotient : Prop :=
  ∀ t : Int,
    itimeTicks .floorTicks t = min 255 (max 0 ⌊(10 * (t : ℚ)) / 24⌋) ∧
    itimeTicks .ceilTicks t = min 255 (max 0 ⌈(10 * (t : ℚ)) / 24⌉) ∧
    itimeTicks .floorTicks t = min 255 (max 0 (5 * t / 12)) ∧
    (itimeTicks .floorTicks t = itimeTicks .ceilTicks t ↔ 12 ∣ t ∨ t ≤ 0 ∨ 612 ≤ t)

/-- 41_driver_config.md R135: SETITIME after EnsureSetup writes 255 - ticks to the timing register, for
every s32, and the bytes at and beyond both clamps. -/
def Obligations.SetitimeWritesTheTimingByte : Prop :=
  ∀ (t : S32) (s : State), s.mode = .run →
    (∀ k < setupCount s + 1, isOk (s.drawAt k) = true) →
    exec (.setitime t) s =
      .next
        { s.afterCommand (setupCount s + 1)
            (setupEvents s ++
              [.write s.busaddr
                [0x81, BitVec.ofInt 8 (255 - itimeTicks s.cfg.itimeRound t.toInt)] (.ok []),
                .resp [0x00]]) with
          init := true } ∧
    (t.toInt ≤ 0 → itimeTicks s.cfg.itimeRound t.toInt = 0) ∧
    (612 ≤ t.toInt → itimeTicks s.cfg.itimeRound t.toInt = 255)

/-- 41_driver_config.md R136: SETPARAM stores any three values, with no transaction and no setup. -/
def Obligations.SetparamStoresItsOperands : Prop :=
  ∀ (bl hy off : S32) (s : State), s.mode = .run →
    encode (.setparam bl hy off) = 0x12 :: (s32Bytes bl ++ s32Bytes hy ++ s32Bytes off) ∧
    exec (.setparam bl hy off) s =
      .next
        { s.afterCommand 0 [.resp [0x00]] with blackLimit := bl, hyst := hy, offset := off }

/-! ### Read-out -/

/-- 20_memory.md R50: the channel counts in the eight bytes of a channel read. -/
def Obligations.ChannelBytesAreLittleEndian : Prop :=
  ∀ d : List Byte, d.length = 8 → channelsOf d = some (channelWords d)

/-- 42_readout.md R161: RAW answers the eight bytes it read. -/
def Obligations.RawAnswersTheBytesRead : Prop :=
  ∀ (s : State) (d : List Byte), s.mode = .run → setupOk s → readOk s (setupCount s) d →
    exec .raw s = .next (s.afterReadout d (0x00 :: d))

/-- 42_readout.md R162: LIGHT answers the clear count, 0 included, with status OK. -/
def Obligations.LightAnswersTheClearCount : Prop :=
  ∀ (s : State) (d : List Byte), s.mode = .run → setupOk s → readOk s (setupCount s) d →
    exec .light s = .next (s.afterReadout d [0x00, d.getD 0 0, d.getD 1 0])

/-- 42_readout.md R164, R170: RGB answers the clear count and the three numerators 255 · X, under status
CLEAR_ZERO where the clear count is 0. -/
def Obligations.RgbAnswersExactFractions : Prop :=
  ∀ (s : State) (d : List Byte), s.mode = .run → setupOk s → readOk s (setupCount s) d →
    exec .rgb s =
      .next (s.afterReadout d
        ((if word16 d 0 = 0 then 0x01 else 0x00) ::
          (u16le (word16 d 0) ++ u32le (255 * word16 d 1) ++ u32le (255 * word16 d 2) ++
            u32le (255 * word16 d 3))))

/-- 42_readout.md R167 to R170: each rounded accessor answers its own channel, rounded with ties up, or
CLEAR_ZERO with the sentinel 0. -/
def Obligations.RoundedAccessorsAnswerTheirChannel : Prop :=
  ∀ (s : State) (d : List Byte), s.mode = .run → setupOk s → readOk s (setupCount s) d →
    let c := word16 d 0
    let answer := fun x : Nat =>
      if c = 0 then [0x01, 0x00, 0x00, 0x00, 0x00]
      else 0x00 :: u32le ((510 * x + c) / (2 * c))
    exec .getred s = .next (s.afterReadout d (answer (word16 d 1))) ∧
    exec .getgreen s = .next (s.afterReadout d (answer (word16 d 2))) ∧
    exec .getblue s = .next (s.afterReadout d (answer (word16 d 3)))

/-- 42_readout.md R166: the integer formula is the nearest integer to 255 · X / C with ties toward +∞,
and its range. -/
def Obligations.RoundedChannelIsTheNearestInteger : Prop :=
  ∀ x c : Nat, 0 < c →
    (roundedNorm x c : Int) = ⌊(255 * (x : ℚ)) / c + 1 / 2⌋ ∧
    (x ≤ 65535 → roundedNorm x c ≤ 16711425)

/-- 42_readout.md R171, an inference the spec marks as its own, on binary64 rounding as log entry 6
models it: the read-out commands answer alike under both values of `ARITH`, and the rounded binary64
quotient is the exact one's. -/
def Obligations.ReadoutIsTheSameUnderBinary64 : Prop :=
  (∀ x c : Nat, x ≤ 65535 → 0 < c → c ≤ 65535 →
    ⌊fl ((255 * (x : ℚ)) / c) + 1 / 2⌋ = (roundedNorm x c : Int)) ∧
  (∀ i ∈ [Instr.raw, .light, .rgb, .getred, .getgreen, .getblue],
    ∀ (s t : State) (m : Arith), exec i s = .next t →
      exec i { s with cfg := { s.cfg with arith := m } } =
        .next { t with cfg := { t.cfg with arith := m } })

/-! ### Classification -/

/-- 43_color.md R190, R194: COLOR reads twice, classifies the first read's channels with the second
read's clear count, and answers CLEAR_ZERO with class 0 where the first clear count is 0. -/
def Obligations.ColorReadsTwiceAndClassifies : Prop :=
  ∀ (s : State) (d₁ d₂ : List Byte), s.mode = .run → setupOk s →
    readOk s (setupCount s) d₁ → readOk s (setupCount s + 2) d₂ →
    exec .color s =
      .next
        { s.afterCommand (setupCount s + 4)
            (setupEvents s ++ channelEvents s d₁ ++ channelEvents s d₂ ++
              [.resp
                (if word16 d₁ 0 = 0 then [0x01, 0x00]
                else
                  [0x00, BitVec.ofNat 8
                    (classify s.cfg.arith s.classParams (channelWords d₁) (word16 d₂ 0))])]) with
          init := true }

/-- 43_color.md R192, an inference the spec marks as its own: the integer comparator gives the class that
R191 gives on exact rationals, and its operands keep the ranges stated. -/
def Obligations.ComparatorGivesTheRationalClass : Prop :=
  (∀ (p : ClassParams) (ch : Channels) (c2 : Nat), ch.clear ≠ 0 →
    classifyExact p ch c2 = classifyRounding id p ch c2) ∧
  (∀ (p : ClassParams) (ch : Channels),
    -2 ^ 31 ≤ p.hyst → p.hyst < 2 ^ 31 → -2 ^ 31 ≤ p.offset → p.offset < 2 ^ 31 →
    ch.clear ≤ 65535 → ch.red ≤ 65535 → ch.green ≤ 65535 → ch.blue ≤ 65535 →
    |p.hyst * (ch.clear : Int)| < 2 ^ 47 ∧ |channelSum ch * p.offset| < 2 ^ 49)

/-- 43_color.md R197, an inference the spec marks as its own: whatever the parameters, the arithmetic and
the reads, a completed COLOR answers one byte in 0..7. -/
def Obligations.ColorClassIsAtMostSeven : Prop :=
  ∀ (s t : State) (st : Byte) (payload : List Byte),
    exec .color s = .next t → t.trace.getLast? = some (.resp (st :: payload)) →
    st = 0x00 ∨ st = 0x01 →
    ∃ c : Byte, payload = [c] ∧ c.toNat ≤ 7

/-- 43_color.md R195, an inference the spec marks as its own: the corners of the parameters. -/
def Obligations.ParameterCornersOfTheClassifier : Prop :=
  ∀ (p : ClassParams) (ch : Channels) (c2 : Nat), ch.clear ≠ 0 →
    (p.hyst ≤ 0 → ¬ lowSpread p ch) ∧
    (lowSpread p ch → (c2 : Int) = p.blackLimit → classifyExact p ch c2 = 7) ∧
    (lowSpread p ch → p.blackLimit ≤ 0 → classifyExact p ch c2 = 7) ∧
    (lowSpread p ch → 65535 < p.blackLimit → c2 ≤ 65535 → classifyExact p ch c2 = 0) ∧
    (¬ lowSpread p ch → channelSum ch = 0 → classifyExact p ch c2 = 0) ∧
    (¬ lowSpread p ch → 1000 ≤ p.offset → 0 < channelSum ch → classifyExact p ch c2 ≠ 7) ∧
    (¬ lowSpread p ch → p.offset = 0 →
      classifyExact p ch c2 =
        (if ch.red = 0 then 0 else 1) + (if ch.green = 0 then 0 else 2) +
          (if ch.blue = 0 then 0 else 4)) ∧
    (¬ lowSpread p ch → p.offset < 0 → 0 < channelSum ch → classifyExact p ch c2 = 7)
end

