-- ==== Sys2Proof/Laws/Decode.lean ====
section
/-! SUPPORT. Little-endian byte sequences, and the operand readers of the decoder. -/

namespace Sys2Proof

@[simp] theorem leBytes_length (k n : Nat) : (leBytes k n).length = k := by
  induction k generalizing n with
  | zero => rfl
  | succ k ih => simp [leBytes, ih]

/-- The low k bytes of a number spell it modulo 256^k. -/
theorem leNat_leBytes (k n : Nat) : leNat (leBytes k n) = n % 256 ^ k := by
  induction k generalizing n with
  | zero => simp [leNat, leBytes, Nat.mod_one]
  | succ k ih =>
    rw [leBytes, leNat, ih, Nat.pow_succ, Nat.mul_comm (256 ^ k) 256, Nat.mod_mul]
    simp

/-- A byte sequence is the little-endian form of the number it spells. -/
theorem leBytes_leNat (bs : List Byte) : leBytes bs.length (leNat bs) = bs := by
  induction bs with
  | nil => rfl
  | cons b bs ih =>
    have hb : b.toNat < 256 := b.isLt
    have hd : (b.toNat + 256 * leNat bs) / 256 = leNat bs := by omega
    have hm : BitVec.ofNat 8 (b.toNat + 256 * leNat bs) = b := by
      apply BitVec.eq_of_toNat_eq
      simp only [BitVec.toNat_ofNat]
      omega
    simp only [List.length_cons, leNat, leBytes, hd, hm, ih]

theorem leNat_lt (bs : List Byte) : leNat bs < 256 ^ bs.length := by
  induction bs with
  | nil => simp [leNat]
  | cons b bs ih =>
    have hb : b.toNat < 256 := b.isLt
    rw [List.length_cons, Nat.pow_succ, leNat]
    omega

@[simp] theorem s32Bytes_length (x : S32) : (s32Bytes x).length = 4 := leBytes_length _ _

/-- An s32 operand is read back from its four bytes (R72). -/
@[simp] theorem s32Of_s32Bytes (x : S32) : s32Of (s32Bytes x) = x := by
  apply BitVec.eq_of_toNat_eq
  have hx : x.toNat < 2 ^ 32 := x.isLt
  simp only [s32Of, s32Bytes, leNat_leBytes, BitVec.toNat_ofNat]
  omega

/-- Four bytes are the operand bytes of the s32 they assemble to (R72). -/
theorem s32Bytes_s32Of {bs : List Byte} (h : bs.length = 4) : s32Bytes (s32Of bs) = bs := by
  have hl := leNat_lt bs
  rw [h] at hl
  have hm : leNat bs % 2 ^ 32 = leNat bs := Nat.mod_eq_of_lt (by omega)
  have hb := leBytes_leNat bs
  rw [h] at hb
  simp only [s32Of, s32Bytes, BitVec.toNat_ofNat, hm, hb]

/-- A 7-bit address survives its byte (R73, R76). -/
@[simp] theorem addrOperand_setWidth (a : Addr) : addrOperand (a.setWidth 8) = some a := by
  have ha : a.toNat < 128 := a.isLt
  have h8 : (a.setWidth 8).toNat = a.toNat := by
    simp only [BitVec.toNat_setWidth]
    omega
  have h : (a.setWidth 8).toNat ≤ 0x7F := by omega
  simp only [addrOperand, h, if_true, Option.some.injEq]
  apply BitVec.eq_of_toNat_eq
  simp only [BitVec.toNat_setWidth]
  omega

/-- A legal address byte is the byte of the address it gives (R76). -/
theorem setWidth_of_addrOperand {b : Byte} {a : Addr} (h : addrOperand b = some a) :
    a.setWidth 8 = b := by
  have hb : b.toNat < 256 := b.isLt
  unfold addrOperand at h
  split at h
  · rename_i hle
    simp only [Option.some.injEq] at h
    subst h
    apply BitVec.eq_of_toNat_eq
    simp only [BitVec.toNat_setWidth]
    omega
  · cases h

/-- The count byte of a byte string that fits it (R72). -/
theorem count_toNat {bytes : List Byte} (h : fitsCount bytes = true) :
    (BitVec.ofNat 8 bytes.length).toNat = bytes.length := by
  simp only [fitsCount, decide_eq_true_eq] at h
  simp only [BitVec.toNat_ofNat]
  omega

end Sys2Proof
end

