-- ==== Sys2Proof/Laws/State.lean ====
section
/-! SUPPORT. One lemma for each field of State and each named update of it. -/

namespace Sys2Proof.Machine

/-! ### log -/

@[simp] theorem log_cfg (s : State) (e : Event) :
    (s.log e).cfg = s.cfg := rfl
@[simp] theorem log_mode (s : State) (e : Event) :
    (s.log e).mode = s.mode := rfl
@[simp] theorem log_init (s : State) (e : Event) :
    (s.log e).init = s.init := rfl
@[simp] theorem log_busaddr (s : State) (e : Event) :
    (s.log e).busaddr = s.busaddr := rfl
@[simp] theorem log_blackLimit (s : State) (e : Event) :
    (s.log e).blackLimit = s.blackLimit := rfl
@[simp] theorem log_hyst (s : State) (e : Event) :
    (s.log e).hyst = s.hyst := rfl
@[simp] theorem log_offset (s : State) (e : Event) :
    (s.log e).offset = s.offset := rfl
@[simp] theorem log_fatalCause (s : State) (e : Event) :
    (s.log e).fatalCause = s.fatalCause := rfl
@[simp] theorem log_seq (s : State) (e : Event) :
    (s.log e).seq = s.seq := rfl
@[simp] theorem log_inputs (s : State) (e : Event) :
    (s.log e).inputs = s.inputs := rfl
@[simp] theorem log_answers (s : State) (e : Event) :
    (s.log e).answers = s.answers := rfl
@[simp] theorem log_drawn (s : State) (e : Event) :
    (s.log e).drawn = s.drawn := rfl
@[simp] theorem log_trace (s : State) (e : Event) :
    (s.log e).trace = s.trace ++ [e] := rfl

/-! ### beginCommand -/

@[simp] theorem beginCommand_cfg (s : State) (i : Instr) :
    (s.beginCommand i).cfg = s.cfg := rfl
@[simp] theorem beginCommand_mode (s : State) (i : Instr) :
    (s.beginCommand i).mode = s.mode := rfl
@[simp] theorem beginCommand_init (s : State) (i : Instr) :
    (s.beginCommand i).init = s.init := rfl
@[simp] theorem beginCommand_busaddr (s : State) (i : Instr) :
    (s.beginCommand i).busaddr = s.busaddr := rfl
@[simp] theorem beginCommand_blackLimit (s : State) (i : Instr) :
    (s.beginCommand i).blackLimit = s.blackLimit := rfl
@[simp] theorem beginCommand_hyst (s : State) (i : Instr) :
    (s.beginCommand i).hyst = s.hyst := rfl
@[simp] theorem beginCommand_offset (s : State) (i : Instr) :
    (s.beginCommand i).offset = s.offset := rfl
@[simp] theorem beginCommand_fatalCause (s : State) (i : Instr) :
    (s.beginCommand i).fatalCause = s.fatalCause := rfl
@[simp] theorem beginCommand_seq (s : State) (i : Instr) :
    (s.beginCommand i).seq = some { command := i, issued := 0, values := [] } := rfl
@[simp] theorem beginCommand_inputs (s : State) (i : Instr) :
    (s.beginCommand i).inputs = s.inputs := rfl
@[simp] theorem beginCommand_answers (s : State) (i : Instr) :
    (s.beginCommand i).answers = s.answers := rfl
@[simp] theorem beginCommand_drawn (s : State) (i : Instr) :
    (s.beginCommand i).drawn = s.drawn := rfl
@[simp] theorem beginCommand_trace (s : State) (i : Instr) :
    (s.beginCommand i).trace = s.trace := rfl

/-! ### issue -/

@[simp] theorem issue_cfg (s : State) :
    s.issue.cfg = s.cfg := rfl
@[simp] theorem issue_mode (s : State) :
    s.issue.mode = s.mode := rfl
@[simp] theorem issue_init (s : State) :
    s.issue.init = s.init := rfl
@[simp] theorem issue_busaddr (s : State) :
    s.issue.busaddr = s.busaddr := rfl
@[simp] theorem issue_blackLimit (s : State) :
    s.issue.blackLimit = s.blackLimit := rfl
@[simp] theorem issue_hyst (s : State) :
    s.issue.hyst = s.hyst := rfl
@[simp] theorem issue_offset (s : State) :
    s.issue.offset = s.offset := rfl
@[simp] theorem issue_fatalCause (s : State) :
    s.issue.fatalCause = s.fatalCause := rfl
@[simp] theorem issue_seq (s : State) :
    s.issue.seq = s.seq.map fun p => { p with issued := p.issued + 1 } := rfl
@[simp] theorem issue_inputs (s : State) :
    s.issue.inputs = s.inputs := rfl
@[simp] theorem issue_answers (s : State) :
    s.issue.answers = s.answers.drop 1 := rfl
@[simp] theorem issue_drawn (s : State) :
    s.issue.drawn = s.drawn + 1 := rfl
@[simp] theorem issue_trace (s : State) :
    s.issue.trace = s.trace := rfl

/-! ### keepValue -/

@[simp] theorem keepValue_cfg (s : State) (d : List Byte) :
    (s.keepValue d).cfg = s.cfg := rfl
@[simp] theorem keepValue_mode (s : State) (d : List Byte) :
    (s.keepValue d).mode = s.mode := rfl
@[simp] theorem keepValue_init (s : State) (d : List Byte) :
    (s.keepValue d).init = s.init := rfl
@[simp] theorem keepValue_busaddr (s : State) (d : List Byte) :
    (s.keepValue d).busaddr = s.busaddr := rfl
@[simp] theorem keepValue_blackLimit (s : State) (d : List Byte) :
    (s.keepValue d).blackLimit = s.blackLimit := rfl
@[simp] theorem keepValue_hyst (s : State) (d : List Byte) :
    (s.keepValue d).hyst = s.hyst := rfl
@[simp] theorem keepValue_offset (s : State) (d : List Byte) :
    (s.keepValue d).offset = s.offset := rfl
@[simp] theorem keepValue_fatalCause (s : State) (d : List Byte) :
    (s.keepValue d).fatalCause = s.fatalCause := rfl
@[simp] theorem keepValue_seq (s : State) (d : List Byte) :
    (s.keepValue d).seq = s.seq.map fun p => { p with values := p.values ++ [d] } := rfl
@[simp] theorem keepValue_inputs (s : State) (d : List Byte) :
    (s.keepValue d).inputs = s.inputs := rfl
@[simp] theorem keepValue_answers (s : State) (d : List Byte) :
    (s.keepValue d).answers = s.answers := rfl
@[simp] theorem keepValue_drawn (s : State) (d : List Byte) :
    (s.keepValue d).drawn = s.drawn := rfl
@[simp] theorem keepValue_trace (s : State) (d : List Byte) :
    (s.keepValue d).trace = s.trace := rfl

/-! ### markInit -/

@[simp] theorem markInit_cfg (s : State) :
    s.markInit.cfg = s.cfg := rfl
@[simp] theorem markInit_mode (s : State) :
    s.markInit.mode = s.mode := rfl
@[simp] theorem markInit_init (s : State) :
    s.markInit.init = true := rfl
@[simp] theorem markInit_busaddr (s : State) :
    s.markInit.busaddr = s.busaddr := rfl
@[simp] theorem markInit_blackLimit (s : State) :
    s.markInit.blackLimit = s.blackLimit := rfl
@[simp] theorem markInit_hyst (s : State) :
    s.markInit.hyst = s.hyst := rfl
@[simp] theorem markInit_offset (s : State) :
    s.markInit.offset = s.offset := rfl
@[simp] theorem markInit_fatalCause (s : State) :
    s.markInit.fatalCause = s.fatalCause := rfl
@[simp] theorem markInit_seq (s : State) :
    s.markInit.seq = s.seq := rfl
@[simp] theorem markInit_inputs (s : State) :
    s.markInit.inputs = s.inputs := rfl
@[simp] theorem markInit_answers (s : State) :
    s.markInit.answers = s.answers := rfl
@[simp] theorem markInit_drawn (s : State) :
    s.markInit.drawn = s.drawn := rfl
@[simp] theorem markInit_trace (s : State) :
    s.markInit.trace = s.trace := rfl

/-! ### setParams -/

@[simp] theorem setParams_cfg (s : State) (bl hy off : S32) :
    (s.setParams bl hy off).cfg = s.cfg := rfl
@[simp] theorem setParams_mode (s : State) (bl hy off : S32) :
    (s.setParams bl hy off).mode = s.mode := rfl
@[simp] theorem setParams_init (s : State) (bl hy off : S32) :
    (s.setParams bl hy off).init = s.init := rfl
@[simp] theorem setParams_busaddr (s : State) (bl hy off : S32) :
    (s.setParams bl hy off).busaddr = s.busaddr := rfl
@[simp] theorem setParams_blackLimit (s : State) (bl hy off : S32) :
    (s.setParams bl hy off).blackLimit = bl := rfl
@[simp] theorem setParams_hyst (s : State) (bl hy off : S32) :
    (s.setParams bl hy off).hyst = hy := rfl
@[simp] theorem setParams_offset (s : State) (bl hy off : S32) :
    (s.setParams bl hy off).offset = off := rfl
@[simp] theorem setParams_fatalCause (s : State) (bl hy off : S32) :
    (s.setParams bl hy off).fatalCause = s.fatalCause := rfl
@[simp] theorem setParams_seq (s : State) (bl hy off : S32) :
    (s.setParams bl hy off).seq = s.seq := rfl
@[simp] theorem setParams_inputs (s : State) (bl hy off : S32) :
    (s.setParams bl hy off).inputs = s.inputs := rfl
@[simp] theorem setParams_answers (s : State) (bl hy off : S32) :
    (s.setParams bl hy off).answers = s.answers := rfl
@[simp] theorem setParams_drawn (s : State) (bl hy off : S32) :
    (s.setParams bl hy off).drawn = s.drawn := rfl
@[simp] theorem setParams_trace (s : State) (bl hy off : S32) :
    (s.setParams bl hy off).trace = s.trace := rfl

/-! ### respond -/

@[simp] theorem respond_cfg (st : Status) (payload : List Byte) (s : State) :
    (respond st payload s).cfg = s.cfg := rfl
@[simp] theorem respond_mode (st : Status) (payload : List Byte) (s : State) :
    (respond st payload s).mode = s.mode := rfl
@[simp] theorem respond_init (st : Status) (payload : List Byte) (s : State) :
    (respond st payload s).init = s.init := rfl
@[simp] theorem respond_busaddr (st : Status) (payload : List Byte) (s : State) :
    (respond st payload s).busaddr = s.busaddr := rfl
@[simp] theorem respond_blackLimit (st : Status) (payload : List Byte) (s : State) :
    (respond st payload s).blackLimit = s.blackLimit := rfl
@[simp] theorem respond_hyst (st : Status) (payload : List Byte) (s : State) :
    (respond st payload s).hyst = s.hyst := rfl
@[simp] theorem respond_offset (st : Status) (payload : List Byte) (s : State) :
    (respond st payload s).offset = s.offset := rfl
@[simp] theorem respond_fatalCause (st : Status) (payload : List Byte) (s : State) :
    (respond st payload s).fatalCause = s.fatalCause := rfl
@[simp] theorem respond_seq (st : Status) (payload : List Byte) (s : State) :
    (respond st payload s).seq = none := rfl
@[simp] theorem respond_inputs (st : Status) (payload : List Byte) (s : State) :
    (respond st payload s).inputs = s.inputs := rfl
@[simp] theorem respond_answers (st : Status) (payload : List Byte) (s : State) :
    (respond st payload s).answers = s.answers := rfl
@[simp] theorem respond_drawn (st : Status) (payload : List Byte) (s : State) :
    (respond st payload s).drawn = s.drawn := rfl
@[simp] theorem respond_trace (st : Status) (payload : List Byte) (s : State) :
    (respond st payload s).trace = s.trace ++ [.resp (st.code :: payload)] := rfl

/-! ### fatalEntry -/

@[simp] theorem fatalEntry_cfg (st : Status) (s : State) :
    (fatalEntry st s).cfg = s.cfg := rfl
@[simp] theorem fatalEntry_mode (st : Status) (s : State) :
    (fatalEntry st s).mode = .halted := rfl
@[simp] theorem fatalEntry_init (st : Status) (s : State) :
    (fatalEntry st s).init = s.init := rfl
@[simp] theorem fatalEntry_busaddr (st : Status) (s : State) :
    (fatalEntry st s).busaddr = s.busaddr := rfl
@[simp] theorem fatalEntry_blackLimit (st : Status) (s : State) :
    (fatalEntry st s).blackLimit = s.blackLimit := rfl
@[simp] theorem fatalEntry_hyst (st : Status) (s : State) :
    (fatalEntry st s).hyst = s.hyst := rfl
@[simp] theorem fatalEntry_offset (st : Status) (s : State) :
    (fatalEntry st s).offset = s.offset := rfl
@[simp] theorem fatalEntry_fatalCause (st : Status) (s : State) :
    (fatalEntry st s).fatalCause = st.code := rfl
@[simp] theorem fatalEntry_seq (st : Status) (s : State) :
    (fatalEntry st s).seq = none := rfl
@[simp] theorem fatalEntry_inputs (st : Status) (s : State) :
    (fatalEntry st s).inputs = s.inputs := rfl
@[simp] theorem fatalEntry_answers (st : Status) (s : State) :
    (fatalEntry st s).answers = s.answers := rfl
@[simp] theorem fatalEntry_drawn (st : Status) (s : State) :
    (fatalEntry st s).drawn = s.drawn := rfl
@[simp] theorem fatalEntry_trace (st : Status) (s : State) :
    (fatalEntry st s).trace = s.trace ++ [.resp [st.code]] := rfl

/-! ### resetBlock -/

@[simp] theorem resetBlock_cfg (s : State) :
    (resetBlock s).cfg = s.cfg := rfl
@[simp] theorem resetBlock_mode (s : State) :
    (resetBlock s).mode = .run := rfl
@[simp] theorem resetBlock_init (s : State) :
    (resetBlock s).init = false := rfl
@[simp] theorem resetBlock_busaddr (s : State) :
    (resetBlock s).busaddr = s.cfg.devAddr := rfl
@[simp] theorem resetBlock_blackLimit (s : State) :
    (resetBlock s).blackLimit = Config.blReset := rfl
@[simp] theorem resetBlock_hyst (s : State) :
    (resetBlock s).hyst = Config.hystReset := rfl
@[simp] theorem resetBlock_offset (s : State) :
    (resetBlock s).offset = Config.offsetReset := rfl
@[simp] theorem resetBlock_fatalCause (s : State) :
    (resetBlock s).fatalCause = 0x00 := rfl
@[simp] theorem resetBlock_seq (s : State) :
    (resetBlock s).seq = none := rfl
@[simp] theorem resetBlock_inputs (s : State) :
    (resetBlock s).inputs = s.inputs := rfl
@[simp] theorem resetBlock_answers (s : State) :
    (resetBlock s).answers = s.answers := rfl
@[simp] theorem resetBlock_drawn (s : State) :
    (resetBlock s).drawn = s.drawn := rfl
@[simp] theorem resetBlock_trace (s : State) :
    (resetBlock s).trace = s.trace ++ [.reset] := rfl

/-! ### afterCommand -/

@[simp] theorem afterCommand_cfg (s : State) (n : Nat) (es : List Event) :
    (s.afterCommand n es).cfg = s.cfg := rfl
@[simp] theorem afterCommand_mode (s : State) (n : Nat) (es : List Event) :
    (s.afterCommand n es).mode = s.mode := rfl
@[simp] theorem afterCommand_init (s : State) (n : Nat) (es : List Event) :
    (s.afterCommand n es).init = s.init := rfl
@[simp] theorem afterCommand_busaddr (s : State) (n : Nat) (es : List Event) :
    (s.afterCommand n es).busaddr = s.busaddr := rfl
@[simp] theorem afterCommand_blackLimit (s : State) (n : Nat) (es : List Event) :
    (s.afterCommand n es).blackLimit = s.blackLimit := rfl
@[simp] theorem afterCommand_hyst (s : State) (n : Nat) (es : List Event) :
    (s.afterCommand n es).hyst = s.hyst := rfl
@[simp] theorem afterCommand_offset (s : State) (n : Nat) (es : List Event) :
    (s.afterCommand n es).offset = s.offset := rfl
@[simp] theorem afterCommand_fatalCause (s : State) (n : Nat) (es : List Event) :
    (s.afterCommand n es).fatalCause = s.fatalCause := rfl
@[simp] theorem afterCommand_seq (s : State) (n : Nat) (es : List Event) :
    (s.afterCommand n es).seq = none := rfl
@[simp] theorem afterCommand_inputs (s : State) (n : Nat) (es : List Event) :
    (s.afterCommand n es).inputs = s.inputs := rfl
@[simp] theorem afterCommand_answers (s : State) (n : Nat) (es : List Event) :
    (s.afterCommand n es).answers = s.answers.drop n := rfl
@[simp] theorem afterCommand_drawn (s : State) (n : Nat) (es : List Event) :
    (s.afterCommand n es).drawn = s.drawn + n := rfl
@[simp] theorem afterCommand_trace (s : State) (n : Nat) (es : List Event) :
    (s.afterCommand n es).trace = s.trace ++ es := rfl

end Sys2Proof.Machine
end

