-- ==== Sys2Proof/Laws/Ops.lean ====
section
/-! SUPPORT. For each shared operation, once, what it can do. -/

namespace Sys2Proof.Machine

/-! ### The environment's answers -/

@[simp] theorem drawAt_issue (s : State) (k : Nat) : s.issue.drawAt k = s.drawAt (k + 1) := by
  simp [State.drawAt, State.issue, List.getD_eq_getElem?_getD, Nat.add_comm k 1, Nat.add_assoc]

@[simp] theorem drawAt_log (s : State) (e : Event) (k : Nat) :
    (s.log e).drawAt k = s.drawAt k := rfl

@[simp] theorem drawAt_beginCommand (s : State) (i : Instr) (k : Nat) :
    (s.beginCommand i).drawAt k = s.drawAt k := rfl

@[simp] theorem drawAt_keepValue (s : State) (d : List Byte) (k : Nat) :
    (s.keepValue d).drawAt k = s.drawAt k := rfl

@[simp] theorem drawAt_markInit (s : State) (k : Nat) : s.markInit.drawAt k = s.drawAt k := rfl

/-- An answer laid down in the state is the one the next transaction gets. -/
theorem drawAt_zero_of_answers {s : State} {o : BusOutcome} {rest : List BusOutcome}
    (h : s.answers = o :: rest) : s.drawAt 0 = o := by
  simp [State.drawAt, h]

/-! ### Bus transactions -/

/-- Everything a write transaction can do. -/
theorem busWrite_cases (a : Addr) (v : List Byte) (s : State) :
    (∃ d, s.drawAt 0 = .ok d ∧
      busWrite a v s = .going () (s.issue.log (.write a v (.ok [])))) ∨
    (s.drawAt 0 = .fail ∧
      busWrite a v s = .ended (fatalEntry .fatalBus (s.issue.log (.write a v .fail)))) ∨
    (s.drawAt 0 = .stall ∧
      busWrite a v s = .ended (s.issue.log (.write a v .stall))) := by
  cases h : s.drawAt 0 <;> simp [busWrite, h, writeOutcome]

/-- Everything a read transaction can do. -/
theorem busRead_cases (a : Addr) (n : Nat) (s : State) :
    (∃ d, s.drawAt 0 = .ok d ∧ d.length = n ∧
      busRead a n s = .going d ((s.issue.log (.read a n (.ok d))).keepValue d)) ∨
    (readOutcome n (s.drawAt 0) = .fail ∧
      busRead a n s = .ended (fatalEntry .fatalBus (s.issue.log (.read a n .fail)))) ∨
    (s.drawAt 0 = .stall ∧
      busRead a n s = .ended (s.issue.log (.read a n .stall))) := by
  cases h : s.drawAt 0 with
  | ok d => by_cases hd : d.length = n <;> simp [busRead, h, readOutcome, hd]
  | fail => simp [busRead, h, readOutcome]
  | stall => simp [busRead, h, readOutcome]

theorem busWrite_ok {a : Addr} {v : List Byte} {s : State} {d : List Byte}
    (h : s.drawAt 0 = .ok d) :
    busWrite a v s = .going () (s.issue.log (.write a v (.ok []))) := by
  simp [busWrite, h, writeOutcome]

theorem busWrite_fail {a : Addr} {v : List Byte} {s : State} (h : s.drawAt 0 = .fail) :
    busWrite a v s = .ended (fatalEntry .fatalBus (s.issue.log (.write a v .fail))) := by
  simp [busWrite, h, writeOutcome]

theorem busWrite_stall {a : Addr} {v : List Byte} {s : State} (h : s.drawAt 0 = .stall) :
    busWrite a v s = .ended (s.issue.log (.write a v .stall)) := by
  simp [busWrite, h, writeOutcome]

theorem busRead_ok {a : Addr} {n : Nat} {s : State} {d : List Byte}
    (h : s.drawAt 0 = .ok d) (hn : d.length = n) :
    busRead a n s = .going d ((s.issue.log (.read a n (.ok d))).keepValue d) := by
  simp [busRead, h, readOutcome, hn]

theorem busRead_fail {a : Addr} {n : Nat} {s : State}
    (h : readOutcome n (s.drawAt 0) = .fail) :
    busRead a n s = .ended (fatalEntry .fatalBus (s.issue.log (.read a n .fail))) := by
  simp [busRead, h]

theorem busRead_stall {a : Addr} {n : Nat} {s : State} (h : s.drawAt 0 = .stall) :
    busRead a n s = .ended (s.issue.log (.read a n .stall)) := by
  simp [busRead, h, readOutcome]

/-! ### Stretches of a command -/

/-- An answer of `isOk` carries data. -/
theorem isOk_iff {o : BusOutcome} : isOk o = true ↔ ∃ d, o = .ok d := by
  cases o <;> simp [isOk]

@[simp] theorem bind_going {α β : Type} (a : α) (s : State) (f : α → State → Progress β) :
    (Progress.going a s).bind f = f a s := rfl

@[simp] theorem bind_ended {α β : Type} (s : State) (f : α → State → Progress β) :
    (Progress.ended s : Progress α).bind f = .ended s := rfl

@[simp] theorem finish_going {α : Type} (a : α) (s : State) (f : α → State → State) :
    (Progress.going a s).finish f = f a s := rfl

@[simp] theorem finish_ended {α : Type} (s : State) (f : α → State → State) :
    (Progress.ended s : Progress α).finish f = s := rfl

/-- Once INIT is set, EnsureSetup does nothing (41_driver_config.md R130). -/
theorem ensureSetup_of_init {s : State} (h : s.init = true) : ensureSetup s = .going () s := by
  simp [ensureSetup, h]

/-- Before INIT is set, EnsureSetup is its two writes and the setting of the flag (R130). -/
theorem ensureSetup_of_not_init {s : State} (h : s.init = false) :
    ensureSetup s =
      (busWrite s.busaddr [0x80, 0x03] s).bind fun _ s =>
        (busWrite s.busaddr [0x81, 0x2B] s).bind fun _ s => .going () s.markInit := by
  simp [ensureSetup, h, Config.enableReg, Config.enableVal, Config.atimeReg, Config.atimeDefault]

/-! ### The common checks -/

theorem runCommand_halted {i : Instr} {s : State} {body : State → State}
    (h : s.mode = .halted) : runCommand i s body = .next (respond .halted [] s) := by
  simp [runCommand, h]

theorem runCommand_run {i : Instr} {s : State} {body : State → State}
    (h : s.mode = .run) (hw : i.wf = true) :
    runCommand i s body = .next (body (s.beginCommand i)) := by
  simp [runCommand, h, hw]

theorem runCommand_illegal {i : Instr} {s : State} {body : State → State}
    (h : s.mode = .run) (hw : i.wf = false) :
    runCommand i s body = .next (respond .illegalOperand [] s) := by
  simp [runCommand, h, hw]

/-! ### The host port -/

/-- Everything the next input can do (30_encoding.md R70, 70_reset_and_hazards.md R251, R260). -/
theorem nextMove_cases (s : State) :
    (s.inputs = [] ∧ nextMove s = .rest s) ∨
    (∃ h rest, s.inputs = h :: rest ∧ (∀ f, h ≠ .command f) ∧
      nextMove s = .rest (restReset rest s)) ∨
    (∃ f rest p, s.inputs = .command f :: rest ∧ s.seq = some p ∧ nextMove s = .rest s) ∨
    (∃ f rest, s.inputs = .command f :: rest ∧ s.seq = none ∧
      nextMove s = .command (dispatchFrame f s) ({ s with inputs := rest }.log (.cmd f))) := by
  match h : s.inputs with
  | [] => simp [nextMove, h]
  | .reset :: rest => simp [nextMove, h]
  | .resetDuring k :: rest => simp [nextMove, h]
  | .command f :: rest =>
    cases hs : s.seq with
    | none => simp [nextMove, h, hs]
    | some p => simp [nextMove, h, hs]

/-- With no reset asserted inside it, a command ends as it leaves the state. -/
theorem endCommand_undisturbed {s : State} {o : Host.Outcome State Fault Refusal}
    (h : undisturbed s.inputs = true) : endCommand s o = o := by
  unfold undisturbed at h
  unfold endCommand
  split at h <;> simp_all

end Sys2Proof.Machine
end

