-- ==== Sys2Proof/Laws/PerInstr.lean ====
section
/-! SUPPORT. Statements made per command. Family `FrameLength`: the frame of a well-formed command has
the length that its format gives it (30_encoding.md R75). -/

namespace Sys2Proof.Laws.FrameLength

/-- The frame of a well-formed command has the length of its format (R73, R75). -/
def Statement (i : Instr) : Prop :=
  i.wf = true → frameLength (encode i) = some (encode i).length

theorem wrreg (a : Addr) (r v : Byte) : Statement (.wrreg a r v) := fun _ => rfl

theorem wrbuf (a : Addr) (r : Byte) (data : List Byte) : Statement (.wrbuf a r data) := by
  intro h
  change (some (4 + (BitVec.ofNat 8 data.length).toNat) : Option Nat) = some (data.length + 4)
  rw [count_toNat h, Nat.add_comm]

theorem rdbuf (a : Addr) (r len : Byte) : Statement (.rdbuf a r len) := fun _ => rfl

theorem decode (fmt data : List Byte) : Statement (.decode fmt data) := by
  intro h
  simp only [Instr.wf, Bool.and_eq_true] at h
  have hf := count_toNat h.1
  have hd := count_toNat h.2
  have hrow : opcodeRow 0x04 = some ⟨0x04, "DECODE", .DF, operandsDF⟩ := rfl
  simp only [encode, frameLength, hrow, Format.frameLength, counted, List.cons_append,
    List.getElem?_cons_succ, List.getElem?_cons_zero, hf, List.length_cons, List.length_append]
  have hget : ((0x04 : Byte) :: BitVec.ofNat 8 fmt.length ::
      (fmt ++ BitVec.ofNat 8 data.length :: data))[2 + fmt.length]? =
      some (BitVec.ofNat 8 data.length) := by
    rw [Nat.add_comm]
    simp
  rw [hget]
  simp only [Option.map_some, hd, Option.some.injEq]
  omega

theorem setup : Statement .setup := fun _ => rfl

theorem setitime (t : S32) : Statement (.setitime t) := fun _ => rfl

theorem setparam (bl hy off : S32) : Statement (.setparam bl hy off) := fun _ => rfl

theorem raw : Statement .raw := fun _ => rfl

theorem light : Statement .light := fun _ => rfl

theorem rgb : Statement .rgb := fun _ => rfl

theorem color : Statement .color := fun _ => rfl

theorem getred : Statement .getred := fun _ => rfl

theorem getgreen : Statement .getgreen := fun _ => rfl

theorem getblue : Statement .getblue := fun _ => rfl

end Sys2Proof.Laws.FrameLength
end

