-- ==== Sys2Proof/Laws/Traffic.lean ====
section
/-! SUPPORT. What a stretch of a command does at the bus, once for every shared operation: it plays a
script of transactions (`playScript`) and changes nothing else but INIT and the sequencer position. -/

namespace Sys2Proof.Machine

/-- `t` is `s` after the transactions of the events `es`: the answers are used up, the events observed,
the sequencer moved on, and of the other fields only INIT may differ, set by completed setup writes. -/
structure Advanced (s t : State) (es : List Event) : Prop where
  cfg : t.cfg = s.cfg
  mode : t.mode = s.mode
  busaddr : t.busaddr = s.busaddr
  blackLimit : t.blackLimit = s.blackLimit
  hyst : t.hyst = s.hyst
  offset : t.offset = s.offset
  fatalCause : t.fatalCause = s.fatalCause
  inputs : t.inputs = s.inputs
  answers : t.answers = s.answers.drop es.length
  drawn : t.drawn = s.drawn + es.length
  trace : t.trace = s.trace ++ es
  seq : t.seq = s.seq.map fun p =>
    { p with issued := p.issued + es.length, values := p.values ++ readValues es }
  init : t.init = s.init ∨
    (s.init = false ∧ t.init = true ∧ setupWrites s.busaddr <:+: es)

theorem Advanced.refl (s : State) : Advanced s s [] where
  cfg := rfl
  mode := rfl
  busaddr := rfl
  blackLimit := rfl
  hyst := rfl
  offset := rfl
  fatalCause := rfl
  inputs := rfl
  answers := rfl
  drawn := rfl
  trace := by simp
  seq := by simp [readValues]
  init := .inl rfl

theorem Advanced.trans {s t u : State} {es fs : List Event} (h : Advanced s t es)
    (h' : Advanced t u fs) : Advanced s u (es ++ fs) where
  cfg := h'.cfg.trans h.cfg
  mode := h'.mode.trans h.mode
  busaddr := h'.busaddr.trans h.busaddr
  blackLimit := h'.blackLimit.trans h.blackLimit
  hyst := h'.hyst.trans h.hyst
  offset := h'.offset.trans h.offset
  fatalCause := h'.fatalCause.trans h.fatalCause
  inputs := h'.inputs.trans h.inputs
  answers := by rw [h'.answers, h.answers, List.drop_drop, List.length_append]
  drawn := by rw [h'.drawn, h.drawn, List.length_append, Nat.add_assoc]
  trace := by rw [h'.trace, h.trace, List.append_assoc]
  seq := by
    rw [h'.seq, h.seq]
    cases s.seq <;> simp [readValues, Nat.add_assoc]
  init := by
    rcases h.init with hi | ⟨h0, h1, hw⟩
    · rcases h'.init with hj | ⟨h2, h3, hx⟩
      · exact .inl (hj.trans hi)
      · refine .inr ⟨hi ▸ h2, h3, ?_⟩
        rw [← h.busaddr]
        exact hx.trans (List.suffix_append es fs).isInfix
    · rcases h'.init with hj | ⟨h2, _, _⟩
      · exact .inr ⟨h0, hj.trans h1, hw.trans (List.prefix_append es fs).isInfix⟩
      · rw [h1] at h2
        cases h2

/-- The answers after a stretch are the later answers from before it. -/
theorem Advanced.drawAt {s t : State} {es : List Event} (h : Advanced s t es) (k : Nat) :
    t.drawAt k = s.drawAt (es.length + k) := by
  simp [State.drawAt, h.answers, h.drawn, List.getD_eq_getElem?_getD, Nat.add_assoc]

/-- A stretch plays this script of transactions. -/
def Follows {α : Type} (s : State) (ts : List Txn) (p : Progress α) : Prop :=
  match (playScript s 0 ts).2, p with
  | .done, .going _ t => Advanced s t (playScript s 0 ts).1
  | .failed, .ended t =>
    ∃ u : State, Advanced s u (playScript s 0 ts).1 ∧ t = fatalEntry .fatalBus u
  | .stalled, .ended t => Advanced s t (playScript s 0 ts).1
  | _, _ => False

/-! ### Scripts -/

theorem playScript_shift {s t : State} {es : List Event} (h : Advanced s t es) (k : Nat)
    (ts : List Txn) : playScript t k ts = playScript s (es.length + k) ts := by
  induction ts generalizing k with
  | nil => rfl
  | cons x ts ih => simp only [playScript, h.drawAt, ih, Nat.add_assoc]

/-- A script that does not end `Ok` is all that is played. -/
theorem playScript_append_stop {s : State} {k : Nat} {ts us : List Txn}
    (h : (playScript s k ts).2 ≠ .done) :
    playScript s k (ts ++ us) = playScript s k ts := by
  induction ts generalizing k with
  | nil => exact absurd rfl h
  | cons x ts ih =>
    simp only [List.cons_append, playScript] at h ⊢
    split at h <;> simp_all

/-- After a script that ends `Ok` the next is played with the answers that follow. -/
theorem playScript_append_done {s : State} {k : Nat} {ts us : List Txn}
    (h : (playScript s k ts).2 = .done) :
    playScript s k (ts ++ us) =
      ((playScript s k ts).1 ++ (playScript s (k + (playScript s k ts).1.length) us).1,
        (playScript s (k + (playScript s k ts).1.length) us).2) := by
  induction ts generalizing k with
  | nil => simp [playScript]
  | cons x ts ih =>
    simp only [List.cons_append, playScript] at h ⊢
    split at h
    · rename_i d hd
      simp only [ih h, List.length_cons, List.cons_append, Nat.add_assoc,
        Nat.add_comm 1 (List.length _)]
    · cases h
    · cases h

/-! ### Stretches -/

/-- A stretch that goes on has played its script to the end. -/
theorem Follows.going_iff {α : Type} {s t : State} {ts : List Txn} {a : α} :
    Follows s ts (.going a t) ↔
      (playScript s 0 ts).2 = .done ∧ Advanced s t (playScript s 0 ts).1 := by
  unfold Follows
  cases h : (playScript s 0 ts).2 <;> simp

/-- A stretch that ends a command has met a failure or a stall. -/
theorem Follows.ended_iff {α : Type} {s t : State} {ts : List Txn} :
    Follows s ts (.ended t : Progress α) ↔
      ((playScript s 0 ts).2 = .failed ∧
        ∃ u : State, Advanced s u (playScript s 0 ts).1 ∧ t = fatalEntry .fatalBus u) ∨
      ((playScript s 0 ts).2 = .stalled ∧ Advanced s t (playScript s 0 ts).1) := by
  unfold Follows
  cases h : (playScript s 0 ts).2 <;> simp

/-- Stretch after stretch plays script after script. -/
theorem Follows.bind {α β : Type} {s : State} {ts us : List Txn} {p : Progress α}
    {f : α → State → Progress β} (hp : Follows s ts p)
    (hf : ∀ a t, p = .going a t → Follows t us (f a t)) : Follows s (ts ++ us) (p.bind f) := by
  cases p with
  | going a t =>
    obtain ⟨hd, ha⟩ := Follows.going_iff.1 hp
    have h := hf a t rfl
    rw [bind_going]
    have hs := playScript_shift ha 0 us
    rw [Nat.add_zero] at hs
    have he := playScript_append_done (us := us) hd
    rw [Nat.zero_add] at he
    cases hq : f a t with
    | going b u =>
      rw [hq] at h
      obtain ⟨hd', ha'⟩ := Follows.going_iff.1 h
      rw [hs] at hd' ha'
      exact Follows.going_iff.2 ⟨by rw [he]; exact hd', by rw [he]; exact ha.trans ha'⟩
    | ended u =>
      rw [hq] at h
      rcases Follows.ended_iff.1 h with ⟨hd', v, ha', hv⟩ | ⟨hd', ha'⟩
      · rw [hs] at hd' ha'
        exact Follows.ended_iff.2
          (.inl ⟨by rw [he]; exact hd', v, by rw [he]; exact ha.trans ha', hv⟩)
      · rw [hs] at hd' ha'
        exact Follows.ended_iff.2 (.inr ⟨by rw [he]; exact hd', by rw [he]; exact ha.trans ha'⟩)
  | ended t =>
    rw [bind_ended]
    rcases Follows.ended_iff.1 hp with ⟨hd, u, ha, hu⟩ | ⟨hd, ha⟩
    · have he : playScript s 0 (ts ++ us) = playScript s 0 ts :=
        playScript_append_stop (by rw [hd]; simp)
      exact Follows.ended_iff.2 (.inl ⟨by rw [he]; exact hd, u, by rw [he]; exact ha, hu⟩)
    · have he : playScript s 0 (ts ++ us) = playScript s 0 ts :=
        playScript_append_stop (by rw [hd]; simp)
      exact Follows.ended_iff.2 (.inr ⟨by rw [he]; exact hd, by rw [he]; exact ha⟩)

/-! ### The shared operations -/

/-- One issued transaction that returned no bytes, observed. -/
theorem Advanced.issue_log (s : State) (e : Event) (he : e.bytesRead = none) :
    Advanced s (s.issue.log e) [e] where
  cfg := rfl
  mode := rfl
  busaddr := rfl
  blackLimit := rfl
  hyst := rfl
  offset := rfl
  fatalCause := rfl
  inputs := rfl
  answers := rfl
  drawn := rfl
  trace := rfl
  seq := by simp [State.issue, State.log, readValues, he]
  init := .inl rfl

/-- A read transaction, observed, with the bytes it returned kept. -/
theorem Advanced.issue_log_keep (s : State) (e : Event) (d : List Byte)
    (he : e.bytesRead = some d) :
    Advanced s ((s.issue.log e).keepValue d) [e] where
  cfg := rfl
  mode := rfl
  busaddr := rfl
  blackLimit := rfl
  hyst := rfl
  offset := rfl
  fatalCause := rfl
  inputs := rfl
  answers := rfl
  drawn := rfl
  trace := rfl
  seq := by cases h : s.seq <;> simp [State.issue, State.log, State.keepValue, readValues, he, h]
  init := .inl rfl

/-- `BusWrite(a, v)` is one write transaction (20_memory.md R44). -/
theorem busWrite_follows (a : Addr) (v : List Byte) (s : State) :
    Follows s [.write a v] (busWrite a v s) := by
  rcases busWrite_cases a v s with ⟨d, hd, h⟩ | ⟨hd, h⟩ | ⟨hd, h⟩ <;> rw [h]
  · simpa [Follows, playScript, Txn.outcome, Txn.event, writeOutcome, hd] using
      Advanced.issue_log s (.write a v (.ok [])) rfl
  · simpa [Follows, playScript, Txn.outcome, Txn.event, writeOutcome, hd] using
      ⟨_, Advanced.issue_log s (.write a v .fail) rfl, rfl⟩
  · simpa [Follows, playScript, Txn.outcome, Txn.event, writeOutcome, hd] using
      Advanced.issue_log s (.write a v .stall) rfl

/-- `BusRead(a, n)` is one read transaction (R44). -/
theorem busRead_follows (a : Addr) (n : Nat) (s : State) :
    Follows s [.read a n] (busRead a n s) := by
  rcases busRead_cases a n s with ⟨d, hd, hn, h⟩ | ⟨hd, h⟩ | ⟨hd, h⟩ <;> rw [h]
  · simpa [Follows, playScript, Txn.outcome, Txn.event, readOutcome, hd, hn] using
      Advanced.issue_log_keep s (.read a n (.ok d)) d rfl
  · simpa [Follows, playScript, Txn.outcome, Txn.event, hd] using
      ⟨_, Advanced.issue_log s (.read a n .fail) rfl, rfl⟩
  · simpa [Follows, playScript, Txn.outcome, Txn.event, readOutcome, hd] using
      Advanced.issue_log s (.read a n .stall) rfl

/-- A read that goes on has returned as many bytes as it asked for (R45). -/
theorem busRead_going_length {a : Addr} {n : Nat} {s t : State} {d : List Byte}
    (h : busRead a n s = .going d t) : d.length = n := by
  rcases busRead_cases a n s with ⟨e, _, hn, he⟩ | ⟨_, he⟩ | ⟨_, he⟩ <;> rw [he] at h
  · cases h
    exact hn
  · cases h
  · cases h

/-- The register read is a select write and a separate read (20_memory.md R46). -/
theorem registerRead_follows (a : Addr) (r : Byte) (n : Nat) (s : State) :
    Follows s [.write a [r], .read a n] (registerRead a r n s) :=
  Follows.bind (busWrite_follows a [r] s) fun _ t _ => busRead_follows a n t

theorem registerRead_going_length {a : Addr} {r : Byte} {n : Nat} {s t : State} {d : List Byte}
    (h : registerRead a r n s = .going d t) : d.length = n := by
  unfold registerRead at h
  cases hw : busWrite a [r] s with
  | going _ u =>
    rw [hw, bind_going] at h
    exact busRead_going_length h
  | ended u =>
    rw [hw, bind_ended] at h
    cases h

/-- EnsureSetup plays the setup writes, or nothing once INIT is set (41_driver_config.md R130). -/
theorem ensureSetup_follows (s : State) : Follows s (setupScript s) (ensureSetup s) := by
  cases hi : s.init with
  | true =>
    rw [ensureSetup_of_init hi]
    simpa [Follows, setupScript, hi, playScript] using Advanced.refl s
  | false =>
    rw [ensureSetup_of_not_init hi]
    rcases busWrite_cases s.busaddr [0x80, 0x03] s with ⟨d, hd, h⟩ | ⟨hd, h⟩ | ⟨hd, h⟩ <;> rw [h]
    · rcases busWrite_cases s.busaddr [0x81, 0x2B]
        (s.issue.log (.write s.busaddr [0x80, 0x03] (.ok []))) with
        ⟨e, he, h'⟩ | ⟨he, h'⟩ | ⟨he, h'⟩ <;>
        simp only [bind_going, bind_ended, log_busaddr, issue_busaddr, h'] <;>
        simp only [drawAt_log, drawAt_issue, Nat.zero_add] at he <;>
        simp only [Follows, setupScript, hi, playScript, Txn.outcome, Txn.event, writeOutcome, hd,
          he, Bool.false_eq_true, if_false, Nat.zero_add]
      · have ha := (Advanced.issue_log s (.write s.busaddr [0x80, 0x03] (.ok [])) rfl).trans
          (Advanced.issue_log _ (.write s.busaddr [0x81, 0x2B] (.ok [])) rfl)
        exact { ha with
          init := .inr ⟨hi, rfl, List.infix_refl _⟩ }
      · exact ⟨_, (Advanced.issue_log s _ rfl).trans (Advanced.issue_log _ _ rfl), rfl⟩
      · exact (Advanced.issue_log s _ rfl).trans (Advanced.issue_log _ _ rfl)
    · simp only [bind_ended, Follows, setupScript, hi, playScript, Txn.outcome, Txn.event,
        writeOutcome, hd, Bool.false_eq_true, if_false]
      exact ⟨_, Advanced.issue_log s _ rfl, rfl⟩
    · simp only [bind_ended, Follows, setupScript, hi, playScript, Txn.outcome, Txn.event,
        writeOutcome, hd, Bool.false_eq_true, if_false]
      exact Advanced.issue_log s _ rfl

/-- Once EnsureSetup has gone on, INIT is set (R130). -/
theorem ensureSetup_going_init {s t : State} {u : Unit} (h : ensureSetup s = .going u t) :
    t.init = true := by
  cases hi : s.init with
  | true =>
    rw [ensureSetup_of_init hi] at h
    cases h
    exact hi
  | false =>
    rw [ensureSetup_of_not_init hi] at h
    cases hw : busWrite s.busaddr [0x80, 0x03] s with
    | ended v =>
      rw [hw, bind_ended] at h
      cases h
    | going a v =>
      rw [hw, bind_going] at h
      cases hx : busWrite v.busaddr [0x81, 0x2B] v with
      | ended w =>
        rw [hx, bind_ended] at h
        cases h
      | going b w =>
        rw [hx, bind_going] at h
        cases h
        rfl

/-- The decode of a channel read cannot raise FATAL_FORMAT (42_readout.md R160). -/
theorem channelsOf_isSome {d : List Byte} (h : d.length = 8) : (channelsOf d).isSome = true := by
  match d, h with
  | [_, _, _, _, _, _, _, _], _ =>
    simp [channelsOf, decodeFormat, channelFormat, scanFormat, fieldKind]

/-- ReadChannels plays EnsureSetup's script and then its own (42_readout.md R160). -/
theorem readChannels_follows (s : State) :
    Follows s (setupScript s ++ channelScript s) (readChannels s) := by
  refine Follows.bind (ensureSetup_follows s) fun _ t ht => ?_
  have hb : t.busaddr = s.busaddr := by
    have hf := ensureSetup_follows s
    rw [ht] at hf
    exact (Follows.going_iff.1 hf).2.busaddr
  have hr := registerRead_follows t.busaddr Config.cdataReg Config.cdataLen t
  have hl : channelScript s = [.write t.busaddr [Config.cdataReg], .read t.busaddr Config.cdataLen] := by
    rw [hb]
    rfl
  rw [hl]
  cases hq : registerRead t.busaddr Config.cdataReg Config.cdataLen t with
  | ended u =>
    rw [hq] at hr
    rw [bind_ended]
    exact Follows.ended_iff.2 (Follows.ended_iff.1 hr)
  | going d u =>
    rw [hq] at hr
    rw [bind_going]
    obtain ⟨ch, hc⟩ := Option.isSome_iff_exists.1
      (channelsOf_isSome (registerRead_going_length hq))
    rw [hc]
    exact Follows.going_iff.2 (Follows.going_iff.1 hr)

/-- Once ReadChannels has gone on, INIT is set. -/
theorem readChannels_going_init {s t : State} {ch : Channels} (h : readChannels s = .going ch t) :
    t.init = true := by
  unfold readChannels at h
  cases he : ensureSetup s with
  | ended u =>
    rw [he, bind_ended] at h
    cases h
  | going a u =>
    have hu := ensureSetup_going_init he
    rw [he, bind_going] at h
    have hr := registerRead_follows u.busaddr Config.cdataReg Config.cdataLen u
    cases hq : registerRead u.busaddr Config.cdataReg Config.cdataLen u with
    | ended v =>
      rw [hq, bind_ended] at h
      cases h
    | going d v =>
      rw [hq] at hr
      rw [hq, bind_going] at h
      have hv : v.init = true := by
        rcases (Follows.going_iff.1 hr).2.init with hi | ⟨_, hi, _⟩
        · rw [hi]
          exact hu
        · exact hi
      split at h
      · cases h
        exact hv
      · cases h

/-! ### INIT, whether a stretch goes on or ends -/

/-- The state a stretch leads to, whether it goes on or ends. -/
def Progress.state {α : Type} (p : Progress α) : State :=
  match p with
  | .going _ s => s
  | .ended s => s

@[simp] theorem state_going {α : Type} (a : α) (s : State) :
    (Progress.going a s).state = s := rfl

@[simp] theorem state_ended {α : Type} (s : State) :
    (Progress.ended s : Progress α).state = s := rfl

/-- A stretch that keeps INIT, after one, leaves INIT as the first made it. -/
theorem bind_init {α β : Type} {p : Progress α} {f : α → State → Progress β}
    (h : ∀ a t, p = .going a t → (f a t).state.init = t.init) :
    (p.bind f).state.init = p.state.init := by
  cases p with
  | going a t => exact h a t rfl
  | ended t => rfl

@[simp] theorem busWrite_init (a : Addr) (v : List Byte) (s : State) :
    (busWrite a v s).state.init = s.init := by
  rcases busWrite_cases a v s with ⟨d, _, h⟩ | ⟨_, h⟩ | ⟨_, h⟩ <;> rw [h] <;> simp

@[simp] theorem busRead_init (a : Addr) (n : Nat) (s : State) :
    (busRead a n s).state.init = s.init := by
  rcases busRead_cases a n s with ⟨d, _, _, h⟩ | ⟨_, h⟩ | ⟨_, h⟩ <;> rw [h] <;> simp

@[simp] theorem registerRead_init (a : Addr) (r : Byte) (n : Nat) (s : State) :
    (registerRead a r n s).state.init = s.init := by
  rw [registerRead, bind_init fun _ t _ => busRead_init a n t, busWrite_init]

/-- EnsureSetup sets INIT exactly where both setup writes complete (41_driver_config.md R130). -/
theorem ensureSetup_init (s : State) :
    (ensureSetup s).state.init = (s.init || (isOk (s.drawAt 0) && isOk (s.drawAt 1))) := by
  cases hi : s.init with
  | true => simp [ensureSetup_of_init hi, hi]
  | false =>
    rw [ensureSetup_of_not_init hi]
    rcases busWrite_cases s.busaddr [0x80, 0x03] s with ⟨d, hd, h⟩ | ⟨hd, h⟩ | ⟨hd, h⟩ <;> rw [h]
    · rcases busWrite_cases s.busaddr [0x81, 0x2B]
        (s.issue.log (.write s.busaddr [0x80, 0x03] (.ok []))) with
        ⟨e, he, h'⟩ | ⟨he, h'⟩ | ⟨he, h'⟩ <;>
        simp only [drawAt_log, drawAt_issue, Nat.zero_add] at he <;>
        simp only [bind_going, bind_ended, log_busaddr, issue_busaddr, h'] <;>
        simp [hd, he, hi, isOk]
    · simp [hd, hi, isOk]
    · simp [hd, hi, isOk]

/-- What follows EnsureSetup in a channel read keeps INIT (42_readout.md R160). -/
theorem readChannels_init (s : State) :
    (readChannels s).state.init = (s.init || (isOk (s.drawAt 0) && isOk (s.drawAt 1))) := by
  rw [← ensureSetup_init, readChannels]
  refine bind_init fun _ t _ => ?_
  rw [bind_init, registerRead_init]
  intro d u _
  cases channelsOf d <;> rfl

end Sys2Proof.Machine
end

