-- ==== Sys2Proof/Laws/Readout.lean ====
section
/-! SUPPORT. What EnsureSetup and ReadChannels give where the environment completes them: the exact
state. -/

namespace Sys2Proof.Machine

/-- `s` inside a command, n transactions and the events `es` further, its reads having returned `vs`,
INIT set. -/
def State.further (s : State) (n : Nat) (vs : List (List Byte)) (es : List Event) : State :=
  { s with
    init := true
    answers := s.answers.drop n
    drawn := s.drawn + n
    trace := s.trace ++ es
    seq := s.seq.map fun p => { p with issued := p.issued + n, values := p.values ++ vs } }

theorem drawAt_further (s : State) (n : Nat) (vs : List (List Byte)) (es : List Event) (k : Nat) :
    (s.further n vs es).drawAt k = s.drawAt (n + k) := by
  simp [State.drawAt, State.further, List.getD_eq_getElem?_getD, Nat.add_assoc]

/-- EnsureSetup with its transactions completed (41_driver_config.md R130). -/
theorem ensureSetup_ok {s : State} (h : setupOk s) :
    ensureSetup s = .going () (s.further (setupCount s) [] (setupEvents s)) := by
  cases hi : s.init with
  | true =>
    rw [ensureSetup_of_init hi]
    obtain ⟨⟩ := s
    cases hi
    simp [State.further, setupCount, setupEvents]
  | false =>
    obtain ⟨d, hd⟩ := isOk_iff.1 (h 0 (by simp [setupCount, hi]))
    obtain ⟨e, he⟩ := isOk_iff.1 (h 1 (by simp [setupCount, hi]))
    rw [ensureSetup_of_not_init hi, busWrite_ok hd, bind_going,
      busWrite_ok (d := e) (by simpa using he), bind_going]
    simp [State.further, setupCount, setupEvents, hi, State.log, State.issue, State.markInit,
      setupWrites, Function.comp_def]

/-- ReadChannels with its transactions completed (42_readout.md R160). -/
theorem readChannels_ok {s : State} {d : List Byte} {ch : Channels} (h : setupOk s)
    (hr : readOk s (setupCount s) d) (hc : channelsOf d = some ch) :
    readChannels s =
      .going ch (s.further (setupCount s + 2) [d] (setupEvents s ++ channelEvents s d)) := by
  obtain ⟨h1, h2, h3⟩ := hr
  obtain ⟨e, he⟩ := isOk_iff.1 h1
  rw [readChannels, ensureSetup_ok h, bind_going, registerRead,
    busWrite_ok (d := e) (by rw [drawAt_further]; exact he), bind_going,
    busRead_ok (n := Config.cdataLen) (d := d) (by rw [drawAt_log, drawAt_issue, drawAt_further]; exact h2) h3, bind_going]
  simp only [hc]
  simp [State.further, State.log, State.issue, State.keepValue, channelEvents, Config.cdataReg,
    Config.cdataLen, Function.comp_def, Nat.add_assoc]

end Sys2Proof.Machine
end

