-- ==== Sys2Proof/Tests/Slice0.lean ====
section
/-! SUPPORT. Tests on small states. Every expected value is the spec's: a vector of 95_test_vectors.md
(S, P and the tables of section 2), or a frame written out from 30_encoding.md R73 and R74. -/

namespace Sys2Proof.Machine.Tests

/-! ### Well-formedness: an ill-formed term for each check -/

theorem test_wf_wrbuf_long : (Instr.wrbuf 0x29 0x00 (List.replicate 256 0)).wf = false := by
  simp only [Instr.wf, fitsCount, List.length_replicate]
  decide

theorem test_wf_rdbuf_empty : (Instr.rdbuf 0x29 0xB4 0).wf = false := by decide

theorem test_wf_decode_long_format : (Instr.decode (List.replicate 256 0x42) []).wf = false := by
  simp only [Instr.wf, fitsCount, List.length_replicate]
  decide

theorem test_wf_decode_long_data : (Instr.decode [] (List.replicate 256 0)).wf = false := by
  simp only [Instr.wf, fitsCount, List.length_replicate]
  decide

/-! ### Decoding: one frame of each command, written out byte by byte (R73, R74) -/

theorem test_decode_wrreg : decode [0x01, 0x29, 0x80, 0x03] = .ok (.wrreg 0x29 0x80 0x03) := by rfl

theorem test_decode_wrbuf :
    decode [0x02, 0x10, 0x05, 0x03, 0x01, 0x02, 0x03] = .ok (.wrbuf 0x10 0x05 [1, 2, 3]) := by rfl

theorem test_decode_rdbuf : decode [0x03, 0x29, 0xB4, 0x08] = .ok (.rdbuf 0x29 0xB4 8) := by rfl

theorem test_decode_decode :
    decode [0x04, 0x02, 0x42, 0x68, 0x03, 0x7F, 0x34, 0x12] =
      .ok (.decode [0x42, 0x68] [0x7F, 0x34, 0x12]) := by rfl

theorem test_decode_setup : decode [0x10] = .ok .setup := by rfl

theorem test_decode_setitime : decode [0x11, 0x00, 0x00, 0x00, 0x80] = .ok (.setitime (-2147483648)) := by
  rfl

theorem test_decode_setparam :
    decode [0x12, 0xF4, 0x01, 0, 0, 0x0A, 0, 0, 0, 0xB0, 0x04, 0, 0] =
      .ok (.setparam 500 10 1200) := by rfl

theorem test_decode_raw : decode [0x20] = .ok .raw := by rfl

theorem test_decode_light : decode [0x21] = .ok .light := by rfl

theorem test_decode_rgb : decode [0x22] = .ok .rgb := by rfl

theorem test_decode_color : decode [0x23] = .ok .color := by rfl

theorem test_decode_getred : decode [0x24] = .ok .getred := by rfl

theorem test_decode_getgreen : decode [0x25] = .ok .getgreen := by rfl

theorem test_decode_getblue : decode [0x26] = .ok .getblue := by rfl

/-- The unassigned opcodes of section 2.5 (R77), and the empty frame. -/
theorem test_decode_unassigned :
    ([[], [0x05], [0xFF], [0x00], [0x13], [0x27]] : List Frame).map decode =
      List.replicate 6 (.error .illegalCommand) := by rfl

/-- The refused frames of sections 2.1, 2.5 and P5: wrong lengths, an address above 0x7F, a read of no
bytes (R75, R76). -/
theorem test_decode_illegal_operand :
    ([[0x01, 0x80, 0x80, 0x03], [0x02, 0x29, 0x81, 0x02, 0xC0], [0x03, 0x29, 0xB4, 0x00],
      [0x04, 0x01, 0x48, 0x02, 0x01], [0x20, 0x00], [0x11, 0x64], [0x04], [0x04, 0x02, 0x48]] :
        List Frame).map decode = List.replicate 8 (.error .illegalOperand) := by rfl

theorem test_opcodes_distinct :
    opcodeTable.Pairwise fun x y => x.opcode ≠ y.opcode := by
  simp only [opcodeTable]
  decide

/-- The table's word of SETITIME, its operand bytes zeros. -/
theorem test_table_word : decodeTableWord 8 0x11 = some (.setitime 0) := by rfl

/-! ### One step -/

/-- A block after reset to which a frame is delivered, with INIT as given and these answers laid
down. -/
def start (init : Bool) (f : Frame) (answers : List BusOutcome) : State :=
  { State.reset with init := init, inputs := [.command f], answers := answers }

/-- The state a step leads to. -/
def after (s : State) : State :=
  match step s with
  | .next t => t
  | .fault _ => s
  | .refused _ => s

/-- The counts of the channel bytes used below: C 100, R 50, G 25, B 75. -/
def counts : List Byte := [0x64, 0, 0x32, 0, 0x19, 0, 0x4B, 0]

/-- The events of a channel read of these bytes. -/
def readEvents (d : List Byte) : List Event :=
  [.write 0x29 [0xB4] (.ok []), .read 0x29 8 (.ok d)]

/-- Section 2.1. -/
theorem test_wrreg :
    (after (start false [0x01, 0x7F, 0x00, 0xFF] [.ok []])).trace =
      [.cmd [0x01, 0x7F, 0x00, 0xFF], .write 0x7F [0x00, 0xFF] (.ok []), .resp [0x00]] := by decide

/-- Section 2.1, the write failing. -/
theorem test_wrreg_fails :
    after (start false [0x01, 0x29, 0x80, 0x03] [.fail]) =
      { State.reset with
        mode := .halted, fatalCause := 0x80, drawn := 1
        trace := [.cmd [0x01, 0x29, 0x80, 0x03], .write 0x29 [0x80, 0x03] .fail, .resp [0x80]] } := by
  decide

/-- Section 2.1, n = 0. -/
theorem test_wrbuf_empty :
    (after (start false [0x02, 0x29, 0x81, 0x00] [.ok []])).trace =
      [.cmd [0x02, 0x29, 0x81, 0x00], .write 0x29 [0x81] (.ok []), .resp [0x00]] := by decide

/-- P3, first command: no setup. -/
theorem test_rdbuf :
    (after (start false [0x03, 0x29, 0xB4, 0x08] [.ok [], .ok counts])).trace =
      .cmd [0x03, 0x29, 0xB4, 0x08] :: readEvents counts ++ [.resp (0x00 :: counts)] := by decide

/-- A read of the wrong length counts as `Fail` (R45). -/
theorem test_rdbuf_short :
    (after (start false [0x03, 0x29, 0x92, 0x01] [.ok [], .ok []])).trace =
      [.cmd [0x03, 0x29, 0x92, 0x01], .write 0x29 [0x92] (.ok []), .read 0x29 1 .fail,
        .resp [0x80]] := by decide

/-- P3: "<h>H" gives -2 and 4660. -/
theorem test_decode_markers :
    decodeFormat [0x3C, 0x68, 0x3E, 0x48] [0xFE, 0xFF, 0x12, 0x34] = some [-2, 4660] := by decide

/-- P3, third command: an unrecognised character halts the block. -/
theorem test_decode_fatal :
    after (start false [0x04, 0x02, 0x48, 0x78, 0x03, 1, 2, 3] []) =
      { State.reset with
        mode := .halted, fatalCause := 0x81
        trace := [.cmd [0x04, 0x02, 0x48, 0x78, 0x03, 1, 2, 3], .resp [0x81]] } := by decide

/-- Section 2.2: the second setup write fails, INIT stays 0. -/
theorem test_setup_fails :
    (after (start false [0x10] [.ok [], .fail])).init = false := by decide

/-- S2. -/
theorem test_setup :
    (after (start false [0x10] [.ok [], .ok []])).trace =
      [.cmd [0x10], .write 0x29 [0x80, 0x03] (.ok []), .write 0x29 [0x81, 0x2B] (.ok []),
        .resp [0x00]] := by decide

/-- P2, second command. -/
theorem test_setitime :
    (after (start true [0x11, 0x64, 0, 0, 0] [.ok []])).trace =
      [.cmd [0x11, 0x64, 0, 0, 0], .write 0x29 [0x81, 0xD6] (.ok []), .resp [0x00]] := by decide

/-- The SETITIME table of section 2.2, under both values of `ITIME_ROUND`. -/
theorem test_timing_bytes :
    ([-2147483648, -1, 0, 3, 11, 13, 509, 611, 612, 2147483647] : List Int).map
        (fun t => (timingByte .floorTicks t, timingByte .ceilTicks t)) =
      [(0xFF, 0xFF), (0xFF, 0xFF), (0xFF, 0xFF), (0xFE, 0xFD), (0xFB, 0xFA), (0xFA, 0xF9),
        (0x2B, 0x2A), (0x01, 0x00), (0x00, 0x00), (0x00, 0x00)] := by decide

/-- Section 2.2: -1, -2147483648, 0 are stored as given. -/
theorem test_setparam :
    (after (start false
      [0x12, 0xFF, 0xFF, 0xFF, 0xFF, 0, 0, 0, 0x80, 0, 0, 0, 0] [])).classParams =
      { blackLimit := -1, hyst := -2147483648, offset := 0 } := by decide

theorem test_raw :
    (after (start true [0x20] [.ok [], .ok counts])).trace =
      .cmd [0x20] :: readEvents counts ++ [.resp (0x00 :: counts)] := by decide

/-- Section 2.5: a stalled select write leaves the block inside RAW. -/
theorem test_raw_stalls :
    (after (start true [0x20] [.stall])).seq =
      some { command := .raw, issued := 1, values := [] } := by decide

/-- Section 2.5, last row: reset, then LIGHT repeats the setup. -/
theorem test_light :
    (after (start false [0x21]
      [.ok [], .ok [], .ok [], .ok [0x09, 0, 0, 0, 0, 0, 0, 0]])).trace.getLast? =
      some (.resp [0x00, 0x09, 0x00]) := by decide

/-- S4. -/
theorem test_rgb :
    (after (start true [0x22] [.ok [], .ok counts])).trace.getLast? =
      some (.resp [0, 0x64, 0, 0xCE, 0x31, 0, 0, 0xE7, 0x18, 0, 0, 0xB5, 0x4A, 0, 0]) := by decide

/-- P4, fifth command: C = 0. -/
theorem test_rgb_clear_zero :
    (after (start true [0x22] [.ok [], .ok [0, 0, 5, 0, 6, 0, 7, 0]])).trace.getLast? =
      some (.resp [1, 0, 0, 0xFB, 4, 0, 0, 0xFA, 5, 0, 0, 0xF9, 6, 0, 0]) := by decide

/-- Section 2.3: 127.5 rounds to 128. -/
theorem test_getred :
    (after (start true [0x24] [.ok [], .ok counts])).trace.getLast? =
      some (.resp [0, 0x80, 0, 0, 0]) := by decide

theorem test_getgreen :
    (after (start true [0x25] [.ok [], .ok counts])).trace.getLast? =
      some (.resp [0, 0x40, 0, 0, 0]) := by decide

theorem test_getblue :
    (after (start true [0x26] [.ok [], .ok counts])).trace.getLast? =
      some (.resp [0, 0xBF, 0, 0, 0]) := by decide

/-- P4, last command. -/
theorem test_getblue_clear_zero :
    (after (start true [0x26] [.ok [], .ok [0, 0, 5, 0, 6, 0, 7, 0]])).trace.getLast? =
      some (.resp [1, 0, 0, 0, 0]) := by decide

/-- S5 and P1, from reset. -/
theorem test_color :
    (after (start false [0x23] [.ok [], .ok [], .ok [], .ok [0x33, 0, 0x28, 0, 0x0A, 0, 0x0A, 0],
      .ok [], .ok [0x2C, 1, 0x28, 0, 0x0A, 0, 0x0A, 0]])).trace.getLast? =
      some (.resp [0x00, 0x01]) := by decide

/-- Section 2.5: read 2 fails after C1 = 0. -/
theorem test_color_fails :
    (after (start true [0x23] [.ok [], .ok [0, 0, 5, 0, 6, 0, 7, 0], .ok [], .fail])).trace.getLast? =
      some (.resp [0x80]) := by decide

/-- Rows of the table of section 2.4, under EXACT. -/
theorem test_classify_exact :
    [classifyExact ⟨1000, 25, 1100⟩ ⟨255, 10, 12, 11⟩ 50,
      classifyExact ⟨1000, 25, 1100⟩ ⟨255, 10, 12, 11⟩ 1000,
      classifyExact ⟨1000, 25, 1100⟩ ⟨255, 100, 100, 75⟩ 255,
      classifyExact ⟨1000, 25, 1100⟩ ⟨22, 11, 14, 5⟩ 22,
      classifyExact ⟨1000, 25, 1100⟩ ⟨255, 200, 10, 190⟩ 255,
      classifyExact ⟨1000, 25, -1⟩ ⟨100, 0, 20, 30⟩ 100,
      classifyExact ⟨1000, 25, 1000⟩ ⟨100, 10, 20, 30⟩ 100,
      classifyExact ⟨1000, -5, 1100⟩ ⟨100, 10, 10, 10⟩ 100] = [0, 7, 0, 2, 5, 7, 4, 0] := by decide

/-- The same table under BINARY64: the row on which the two differ, a tie, and an ordinary row. -/
theorem test_classify_binary64 :
    [classify .binary64 ⟨1000, 25, 1100⟩ ⟨22, 11, 14, 5⟩ 22,
      classify .binary64 ⟨1000, 25, 1100⟩ ⟨100, 110, 100, 90⟩ 100,
      classify .binary64 ⟨1000, 25, 1100⟩ ⟨255, 100, 100, 75⟩ 255,
      classify .binary64 ⟨1000, 25, 1100⟩ ⟨100, 10, 60, 70⟩ 100] = [3, 0, 0, 6] := by decide +kernel

/-- Section 2.5: HALTED comes before ILLEGAL_COMMAND. -/
theorem test_halted_first :
    (after { start true [0x05] [] with mode := .halted, fatalCause := 0x80 }).trace =
      [.cmd [0x05], .resp [0x82]] := by decide

/-- Section 2.5: reset ends a stall. -/
theorem test_reset_ends_stall :
    after { State.reset with
      init := true, seq := some { command := .raw, issued := 1, values := [] },
      inputs := [.reset] } = { State.reset with trace := [.reset] } := by decide

/-- R34: COLOR stalls in its second read, from INIT = 0: the sequencer holds the first read's bytes, and
INIT is set (41_driver_config.md R130). -/
theorem test_color_stalls :
    let t := after (start false [0x23] [.ok [], .ok [], .ok [], .ok counts, .ok [], .stall])
    t.seq = some { command := .color, issued := 6, values := [counts] } ∧ t.init = true := by decide

/-- R130: the select write of RAW fails after both setup writes completed. -/
theorem test_raw_fails_after_setup :
    (after (start false [0x20] [.ok [], .ok [], .fail])).init = true := by decide

/-- R107: ">BH", the order in force after an 8-bit field. -/
theorem test_order_across_byte_field :
    decodeFormat [0x3E, 0x42, 0x48] [0x01, 0x12, 0x34] = some [1, 4660] := by decide

/-- R251: a reset after the select write of RAW. -/
theorem test_reset_inside_command :
    after { start true [0x20] [.ok [], .ok counts] with
        inputs := [.command [0x20], .resetDuring 1] } =
      { State.reset with
        answers := [.ok counts], drawn := 1
        trace := [.cmd [0x20], .write 0x29 [0xB4] (.ok []), .reset] } := by decide

/-- The fetch interface: the next step runs the command placed. -/
theorem test_fetch_word :
    (after (State.reset.withFetchWord 8 0x12)).trace =
      [.cmd (0x12 :: List.replicate 12 0), .resp [0x00]] := by decide

/-! ### Witnesses: concrete states and operands that meet the hypotheses of each obligation

Each theorem is named after the obligation whose hypotheses it meets, clause by clause where clauses have
their own. -/

/-- A block after reset with these answers laid down and no input to come. -/
def idle (answers : List BusOutcome) : State := { State.reset with answers := answers }

/-- The same with INIT set. -/
def ready (answers : List BusOutcome) : State := { idle answers with init := true }

/-- A block halted by a failed transaction. -/
def haltedBlock (inputs : List HostInput) : State :=
  { State.reset with mode := .halted, fatalCause := 0x80, inputs := inputs }

/-- A block stalled inside RAW. -/
def stalledBlock (inputs : List HostInput) : State :=
  { State.reset with
    seq := some { command := .raw, issued := 1, values := [] }, inputs := inputs }

/-- Channel bytes with a clear count of 0. -/
def noLight : List Byte := [0, 0, 5, 0, 6, 0, 7, 0]

/-- The operand counts at both ends of their ranges. -/
theorem test_witness_DecodeReadsBackEveryEncodedCommand :
    (Instr.rdbuf 0x7F 0xB4 1).wf = true ∧ (Instr.rdbuf 0 0 255).wf = true ∧
    (Instr.wrbuf 0x29 0x81 []).wf = true ∧
    (Instr.decode (List.replicate 255 0x42) (List.replicate 255 0)).wf = true := by
  refine ⟨by decide, by decide, by decide, ?_⟩
  simp only [Instr.wf, fitsCount, List.length_replicate]
  decide

theorem test_witness_DecodedFrameIsTheCommandsFrame :
    decode [0x02, 0x7F, 0x81, 0x00] = .ok (.wrbuf 0x7F 0x81 []) := by rfl

theorem test_witness_UnassignedOpcodeAnswersIllegalCommand :
    (start false [0x05] []).mode = .run ∧ (start false [0x05] []).seq = none ∧
    (start false [0x05] []).inputs = .command [0x05] :: [] ∧ undisturbed [] = true ∧
    noCommand [0x05] ∧ noCommand [] := by
  refine ⟨rfl, rfl, rfl, rfl, .inr ⟨0x05, [], rfl, ?_⟩, .inl rfl⟩
  simp only [opcodeTable, List.forall_mem_cons]
  decide

/-- The three ways a frame's operands are refused. -/
theorem test_witness_BadFrameAnswersIllegalOperand :
    (start false [0x20, 0] []).mode = .run ∧ (start false [0x20, 0] []).seq = none ∧
    (start false [0x20, 0] []).inputs = .command [0x20, 0] :: [] ∧ undisturbed [] = true ∧
    badOperand [0x20, 0] ∧ badOperand [0x01, 0x80, 0, 0] ∧ badOperand [0x03, 0x29, 0xB4, 0] := by
  refine ⟨rfl, rfl, rfl, rfl,
    ⟨⟨0x20, "RAW", .N, operandsN .raw⟩, by simp [opcodeTable], rfl, .inl (by decide)⟩,
    ⟨⟨0x01, "WRREG", .WB, operandsWB⟩, by simp [opcodeTable], rfl,
      .inr (.inl ⟨.inl rfl, 0x80, rfl, by decide⟩)⟩,
    ⟨⟨0x03, "RDBUF", .RB, operandsRB⟩, by simp [opcodeTable], rfl, .inr (.inr ⟨rfl, rfl⟩)⟩⟩

theorem test_witness_HaltedBlockAnswersHalted :
    (haltedBlock [.command [0x05], .reset]).mode = .halted ∧
    (haltedBlock [.command [0x05], .reset]).seq = none ∧
    (haltedBlock [.command [0x05], .reset]).inputs = .command [0x05] :: [.reset] ∧
    undisturbed [.reset] = true := by decide

theorem test_witness_IllFormedCommandAnswersIllegalOperand :
    (idle []).mode = .run ∧ (Instr.rdbuf 0x29 0xB4 0).wf = false := by decide

theorem test_witness_StepRunsTheDecodedCommand :
    (start true [0x23] []).mode = .run ∧ (start true [0x23] []).seq = none ∧
    (start true [0x23] []).inputs = .command [0x23] :: [] ∧ undisturbed [] = true ∧
    decode [0x23] = .ok .color := ⟨rfl, rfl, rfl, rfl, rfl⟩

theorem test_witness_RestingBlockDoesNotMove :
    (idle []).inputs = [] ∧ (stalledBlock [.command [0x10]]).inputs = .command [0x10] :: [] ∧
    (stalledBlock [.command [0x10]]).seq =
      some { command := .raw, issued := 1, values := [] } := by decide

theorem test_witness_ResetInputRestoresResetValues :
    (haltedBlock [.reset]).inputs = .reset :: [] := by decide

/-- The command has 3 events: a reset before the first, before the last, and after the last. -/
theorem test_witness_ResetInsideCommandAbortsIt :
    ∀ k ∈ [0, 2, 3],
    let s : State := { start true [0x20] [.ok [], .fail] with
      inputs := [.command [0x20], .resetDuring k] }
    s.mode = .run ∧ s.seq = none ∧ s.inputs = .command [0x20] :: .resetDuring k :: [] ∧
    decode [0x20] = .ok .raw ∧
    ∃ t, exec .raw { s with
      inputs := .resetDuring k :: [], trace := s.trace ++ [.cmd [0x20]] } = .next t :=
  fun _ _ => ⟨rfl, rfl, rfl, rfl, _, rfl⟩

theorem test_witness_FirstDriverCommandAfterResetRepeatsSetup :
    callsSetup .light = true ∧
    (∃ t, exec .light (resetBlock (ready [.fail])) = .next t) ∧ isOk (.ok []) = true :=
  ⟨rfl, ⟨_, rfl⟩, rfl⟩

theorem test_witness_OnlyResetLeavesHalted :
    (haltedBlock [.command [0x10]]).mode = .halted ∧
    (∃ t, step (haltedBlock [.command [0x10]]) = .next t ∧ t.mode = .halted) ∧
    ∃ t, step (haltedBlock [.reset]) = .next t ∧ t.mode = .run :=
  ⟨rfl, ⟨_, rfl, rfl⟩, _, rfl, rfl⟩

/-- States other than the reset state: a halted and a stalled block. -/
theorem test_witness_StepKeepsTheStateLegal :
    (haltedBlock [.reset]).Legal ∧ (∃ t, step (haltedBlock [.reset]) = .next t) ∧
    (stalledBlock [.reset]).Legal ∧ ∃ t, step (stalledBlock [.reset]) = .next t :=
  ⟨⟨rfl, .inl rfl, rfl⟩, ⟨_, rfl⟩, ⟨rfl, rfl⟩, _, rfl⟩

/-- A block that has run SETUP and is to run RAW. -/
theorem test_witness_StepKeepsTheObservationLegal :
    let s := after { start false [0x10] [.ok [], .ok [], .fail] with
      inputs := [.command [0x10], .command [0x20]] }
    s.ObservationLegal ∧ s.init = true ∧ ∃ t, step s = .next t ∧ t.mode = .halted :=
  ⟨by unfold State.ObservationLegal; decide, by decide, _, rfl, by decide⟩

theorem test_witness_StepKeepsInitBehindSetupWrites :
    let s := after (start false [0x10] [.ok [], .ok []])
    s.init = true ∧ s.SetupWritten ∧ ∃ t, step s = .next t :=
  ⟨by decide, by unfold State.SetupWritten; decide, _, rfl⟩

/-- A command of each way a script ends, and INIT set by a command that fails later. -/
theorem test_witness_BusTrafficFollowsTheCommandsScript :
    Instr.color.wf = true ∧ (ready []).mode = .run ∧
    (let s := ready [.ok [], .ok counts, .ok [], .ok counts];
      (playScript s 0 (commandScript s .color)).2 = .done) ∧
    (let s := ready [.ok [], .ok counts, .ok [], .ok []];
      (playScript s 0 (commandScript s .color)).2 = .failed) ∧
    (let s := ready [.ok [], .ok counts, .stall];
      (playScript s 0 (commandScript s .color)).2 = .stalled) ∧
    (let s := idle [.ok [], .ok [], .fail];
      s.mode = .run ∧ (playScript s 0 (commandScript s .color)).2 = .failed ∧
        initAfter s .color = true) ∧
    (let s := idle [.ok [], .fail];
      (playScript s 0 (commandScript s .color)).2 = .failed ∧
        initAfter s .color = false) := by decide

/-- A command that changes the parameters, one that sets INIT, and the two fatal ones. -/
theorem test_witness_CommandsWriteOnlyTheirFields :
    (∃ t, exec (.setparam 1 2 3) (idle []) = .next t ∧ t.hyst = 2) ∧
    (∃ t, exec .setup (idle [.ok [], .ok []]) = .next t ∧ t.init = true) ∧
    (∃ t, exec .raw (ready [.fail]) = .next t ∧ t.fatalCause = 0x80) ∧
    (∃ t, exec (.decode [0x48] []) (idle []) = .next t ∧ t.fatalCause = 0x81) ∧
    (haltedBlock []).mode = .halted :=
  ⟨⟨_, rfl, by decide⟩, ⟨_, rfl, by decide⟩, ⟨_, rfl, by decide⟩, ⟨_, rfl, by decide⟩, rfl⟩

theorem test_witness_AdapterCommandsIgnoreDriverState :
    isAdapter (.rdbuf 0x29 0xB4 8) = true ∧
    ∃ t, exec (.rdbuf 0x29 0xB4 8) (idle [.ok [], .ok counts]) = .next t :=
  ⟨rfl, _, rfl⟩

theorem test_witness_WrregWritesOneRegisterByte :
    (idle []).mode = .run ∧ isOk ((idle [.ok []]).drawAt 0) = true ∧
    (idle [.fail]).drawAt 0 = .fail ∧ (idle [.stall]).drawAt 0 = .stall ∧
    ([0x29, 0x80] : List Byte).length ≠ 3 ∧
    ([0x80, 0x80, 0x03] : List Byte).head? = some 0x80 ∧ 0x7F < (0x80 : Byte).toNat := by decide

theorem test_witness_WrbufWritesOneTransaction :
    (idle []).mode = .run ∧ ([] : List Byte).length ≤ 255 ∧
    (List.replicate 255 (0 : Byte)).length ≤ 255 ∧ isOk ((idle [.ok []]).drawAt 0) = true ∧
    (idle [.fail]).drawAt 0 = .fail ∧ (idle [.stall]).drawAt 0 = .stall ∧
    (∀ n, ([0x29, 0x81, 1] : List Byte)[2]? = some n →
      ([0x29, 0x81, 1] : List Byte).length ≠ 3 + n.toNat) ∧
    ([0x80, 0x81, 0] : List Byte).head? = some 0x80 ∧ 0x7F < (0x80 : Byte).toNat := by
  refine ⟨rfl, by decide, ?_, by decide, by decide, by decide, ?_, rfl, by decide⟩
  · rw [List.length_replicate]
  · intro n h
    cases h
    decide

theorem test_witness_RdbufSelectsThenReads :
    (idle []).mode = .run ∧ 1 ≤ (1 : Byte).toNat ∧ 1 ≤ (255 : Byte).toNat ∧
    isOk ((idle [.ok [], .ok [7]]).drawAt 0) = true ∧
    (idle [.ok [], .ok [7]]).drawAt 1 = .ok [7] ∧ ([7] : List Byte).length = (1 : Byte).toNat ∧
    (idle [.fail]).drawAt 0 = .fail ∧ (idle [.stall]).drawAt 0 = .stall ∧
    readOutcome 1 ((idle [.ok [], .ok []]).drawAt 1) = .fail ∧
    readOutcome 1 ((idle [.ok [], .fail]).drawAt 1) = .fail ∧
    (idle [.ok [], .stall]).drawAt 1 = .stall ∧ ([0x29] : List Byte).length ≠ 3 ∧
    ([0xFF, 0, 1] : List Byte).head? = some 0xFF ∧ 0x7F < (0xFF : Byte).toNat ∧
    ([0x29, 0, 0] : List Byte)[2]? = some 0 := by decide

theorem test_witness_DecodeAnswersTheValuesOrHalts :
    (idle []).mode = .run ∧ ([] : List Byte).length ≤ 255 ∧
    decodeFormat [] [] = some [] ∧ decodeFormat [0x68] [0xFF, 0xFF] = some [-1] ∧
    decodeFormat [0x78] [0] = none ∧ ([0x00] : List Byte)[1 + 0]? = none ∧
    ([0x01, 0x48, 0x02, 0x01] : List Byte).length ≠ 2 + 1 + 2 := by decide

theorem test_witness_MarkersSetTheByteOrderOfLaterFields :
    ∀ c ∈ ([0x62, 0x42] : List Byte), c = 0x62 ∨ c = 0x42 := by decide

/-- Both format errors, at their boundaries, and bytes to spare. -/
theorem test_witness_FormatErrorsAreUnknownCharactersAndShortData :
    isMarker 0x61 = false ∧ isField 0x61 = false ∧
    ([1] : List Byte).length < formatWidth [0x48] ∧ ¬ ([1, 2] : List Byte).length < formatWidth [0x48] ∧
    decodeFormat [0x48] [1, 2] = some [513] ∧ decodeFormat [0x48] [1, 2, 3] = some [513] := by decide

theorem test_witness_DecodedValuesLieInTheirFieldsRanges :
    decodeFormat [0x62, 0x3E, 0x42, 0x68, 0x48] [0x80, 0xFF, 0x80, 0x00, 0xFF, 0xFF] =
      some [-128, 255, -32768, 65535] := by decide

theorem test_witness_SetupWritesTheDeviceOnce :
    (ready []).mode = .run ∧ (ready []).init = true ∧ (idle []).mode = .run ∧
    (idle []).init = false ∧ isOk ((idle [.ok [], .ok []]).drawAt 0) = true ∧
    isOk ((idle [.ok [], .ok []]).drawAt 1) = true ∧ (idle [.fail]).drawAt 0 = .fail ∧
    (idle [.ok [], .fail]).drawAt 1 = .fail ∧ (idle [.stall]).drawAt 0 = .stall ∧
    (idle [.ok [], .stall]).drawAt 1 = .stall := by decide

theorem test_witness_RepeatedSetupWritesTwiceInAll :
    ∀ n ∈ [0, 2],
    let s : State := { idle [.ok [], .ok []] with
      inputs := List.replicate (n + 1) (.command [0x10]) }
    s.mode = .run ∧ s.seq = none ∧ s.init = false ∧
    isOk (s.drawAt 0) = true ∧ isOk (s.drawAt 1) = true := by decide

/-- Where the two tick counts agree, and where they do not. -/
theorem test_witness_TicksFollowTheExactQuotient :
    itimeTicks .floorTicks 12 = itimeTicks .ceilTicks 12 ∧
    itimeTicks .floorTicks (-1) = itimeTicks .ceilTicks (-1) ∧
    itimeTicks .floorTicks 612 = itimeTicks .ceilTicks 612 ∧
    itimeTicks .floorTicks 611 ≠ itimeTicks .ceilTicks 611 ∧
    itimeTicks .floorTicks 1 ≠ itimeTicks .ceilTicks 1 := by decide

theorem test_witness_SetitimeWritesTheTimingByte :
    (idle []).mode = .run ∧
    (∀ k < setupCount (idle []) + 1, isOk ((idle [.ok [], .ok [], .ok []]).drawAt k) = true) ∧
    (∀ k < setupCount (ready []) + 1, isOk ((ready [.ok []]).drawAt k) = true) ∧
    (0 : S32).toInt ≤ 0 ∧ 612 ≤ (612 : S32).toInt := by decide

theorem test_witness_SetparamStoresItsOperands : (idle []).mode = .run := by decide

theorem test_witness_ChannelBytesAreLittleEndian : counts.length = 8 := by decide

/-- The hypotheses of every read-out statement (RAW, LIGHT, RGB, GETRED, GETGREEN, GETBLUE), from both
values of INIT. -/
theorem test_witness_RawAnswersTheBytesRead :
    (let s := idle [.ok [], .ok [], .ok [], .ok counts];
      s.mode = .run ∧ setupOk s ∧ readOk s (setupCount s) counts) ∧
    (let s := ready [.ok [], .ok counts];
      s.mode = .run ∧ setupOk s ∧ readOk s (setupCount s) counts) := by
  unfold setupOk readOk
  decide

/-- The same with a clear count of 0 and of 1. -/
theorem test_witness_LightAnswersTheClearCount :
    (let s := ready [.ok [], .ok noLight];
      s.mode = .run ∧ setupOk s ∧ readOk s (setupCount s) noLight) ∧ word16 noLight 0 = 0 ∧
    (let s := ready [.ok [], .ok [1, 0, 0, 0, 0, 0, 0, 0]];
      s.mode = .run ∧ setupOk s ∧ readOk s (setupCount s) [1, 0, 0, 0, 0, 0, 0, 0]) ∧
    word16 [1, 0, 0, 0, 0, 0, 0, 0] 0 = 1 := by
  unfold setupOk readOk
  decide

/-- Both statuses of RGB. -/
theorem test_witness_RgbAnswersExactFractions :
    (let s := ready [.ok [], .ok noLight];
      s.mode = .run ∧ setupOk s ∧ readOk s (setupCount s) noLight ∧ word16 noLight 0 = 0) ∧
    (let s := ready [.ok [], .ok counts];
      s.mode = .run ∧ setupOk s ∧ readOk s (setupCount s) counts ∧ word16 counts 0 = 100) := by
  unfold setupOk readOk
  decide

/-- Both statuses of the rounded accessors. -/
theorem test_witness_RoundedAccessorsAnswerTheirChannel :
    (let s := idle [.ok [], .ok [], .ok [], .ok noLight];
      s.mode = .run ∧ setupOk s ∧ readOk s (setupCount s) noLight ∧ word16 noLight 0 = 0) ∧
    (let s := ready [.ok [], .ok counts];
      s.mode = .run ∧ setupOk s ∧ readOk s (setupCount s) counts ∧ word16 counts 0 = 100) := by
  unfold setupOk readOk
  decide

theorem test_witness_RoundedChannelIsTheNearestInteger :
    0 < 1 ∧ 65535 ≤ 65535 ∧ roundedNorm 65535 1 = 16711425 ∧ roundedNorm 0 65535 = 0 := by decide

theorem test_witness_ReadoutIsTheSameUnderBinary64 :
    (0 ≤ 65535 ∧ 65535 ≤ 65535 ∧ 0 < 1 ∧ 1 ≤ 65535) ∧
    Instr.getred ∈ [Instr.raw, .light, .rgb, .getred, .getgreen, .getblue] ∧
    ∃ t, exec .getred (ready [.ok [], .ok counts]) = .next t :=
  ⟨by decide, by decide, _, rfl⟩

/-- Both answers of COLOR, and from both values of INIT. -/
theorem test_witness_ColorReadsTwiceAndClassifies :
    (let s := idle [.ok [], .ok [], .ok [], .ok counts, .ok [], .ok noLight];
      s.mode = .run ∧ setupOk s ∧ readOk s (setupCount s) counts ∧
        readOk s (setupCount s + 2) noLight ∧ word16 counts 0 = 100) ∧
    (let s := ready [.ok [], .ok noLight, .ok [], .ok counts];
      s.mode = .run ∧ setupOk s ∧ readOk s (setupCount s) noLight ∧
        readOk s (setupCount s + 2) counts ∧ word16 noLight 0 = 0) := by
  unfold setupOk readOk
  decide

/-- The parameters at both ends of s32, the counts at both ends of u16. -/
theorem test_witness_ComparatorGivesTheRationalClass :
    (⟨1, 0, 0, 0⟩ : Channels).clear ≠ 0 ∧
    (∀ h ∈ [(-2 ^ 31 : Int), 2 ^ 31 - 1], -2 ^ 31 ≤ h ∧ h < 2 ^ 31) ∧
    (⟨65535, 65535, 65535, 65535⟩ : Channels).clear ≤ 65535 := by decide

/-- A completed COLOR of each status. -/
theorem test_witness_ColorClassIsAtMostSeven :
    (∃ t, exec .color (ready [.ok [], .ok noLight, .ok [], .ok counts]) = .next t ∧
      t.trace.getLast? = some (.resp [0x01, 0x00])) ∧
    ∃ t, exec .color (ready [.ok [], .ok counts, .ok [], .ok counts]) = .next t ∧
      t.trace.getLast? = some (.resp [0x00, 0x04]) :=
  ⟨⟨_, rfl, by decide⟩, _, rfl, by decide⟩

/-- The premises of each corner, at its boundary. -/
theorem test_witness_ParameterCornersOfTheClassifier :
    (⟨100, 0, 0, 0⟩ : Channels).clear ≠ 0 ∧ (⟨0, 0, 0⟩ : ClassParams).hyst ≤ 0 ∧
    lowSpread ⟨0, 1, 0⟩ ⟨100, 5, 5, 5⟩ ∧ lowSpread ⟨65536, 1, 0⟩ ⟨100, 5, 5, 5⟩ ∧
    ¬ lowSpread ⟨0, 0, 0⟩ ⟨100, 0, 0, 0⟩ ∧ channelSum ⟨100, 0, 0, 0⟩ = 0 ∧
    ¬ lowSpread ⟨0, 0, 1000⟩ ⟨100, 1, 0, 0⟩ ∧ 0 < channelSum ⟨100, 1, 0, 0⟩ ∧
    ¬ lowSpread ⟨0, 0, -1⟩ ⟨100, 1, 0, 0⟩ := by
  unfold lowSpread channelSum
  decide

end Sys2Proof.Machine.Tests
end

section
/-! PROOFS. Channel data is little-endian (20_memory.md R50): the u16 fields of the format decoder, and
the counts that the format "HHHH" reads from the eight bytes of a channel read. -/

namespace Sys2Proof.Machine

/-- A two-byte sequence spells the disjunction of its low byte and its shifted high byte (R50, R51). -/
theorem leNat_pair (lo hi : Byte) : leNat [lo, hi] = lo.toNat ||| hi.toNat <<< 8 := by
  have hlo : lo.toNat < 2 ^ 8 := lo.isLt
  calc leNat [lo, hi] = hi.toNat <<< 8 + lo.toNat := by simp only [leNat, Nat.shiftLeft_eq]; omega
    _ = hi.toNat <<< 8 ||| lo.toNat := Nat.shiftLeft_add_eq_or_of_lt hlo _
    _ = lo.toNat ||| hi.toNat <<< 8 := Nat.or_comm _ _

/-- A u16 field takes two bytes, in the byte order in force, and leaves the order as it is (40_adapter.md
R105, R106). -/
theorem scanFormat_u16 (le : Bool) (fmt : List Byte) (x y : Byte) (data : List Byte) :
    scanFormat le (0x48 :: fmt) (x :: y :: data) =
      (scanFormat le fmt data).map ((leNat (if le then [x, y] else [y, x]) : Int) :: ·) := by
  cases le <;> simp [scanFormat, fieldKind, FieldKind.value]

/-- The scan ends with the format; bytes left over are no error (R108). -/
theorem scanFormat_nil (le : Bool) (data : List Byte) : scanFormat le [] data = some [] := rfl

/-- The format "HHHH" reads four little-endian words. -/
theorem decodeFormat_channelFormat (a b c d e f g h : Byte) :
    decodeFormat channelFormat [a, b, c, d, e, f, g, h] =
      some [(leNat [a, b] : Int), leNat [c, d], leNat [e, f], leNat [g, h]] := by
  simp only [decodeFormat, channelFormat, scanFormat_u16, scanFormat_nil, Option.map_some, if_true]

/-- Settles O36: each count of a channel read is a u16 field in the little-endian order that stands before
any marker, and a two-byte field is the disjunction of its bytes. -/
theorem channelBytesAreLittleEndian : Obligations.ChannelBytesAreLittleEndian := by
  intro d hlen
  match d, hlen with
  | [_, _, _, _, _, _, _, _], _ =>
    rw [channelsOf, decodeFormat_channelFormat]
    simp [channelWords, word16, leNat_pair]

end Sys2Proof.Machine
end

section
/-! PROOFS. The format decoder (40_adapter.md R105 to R108): one equation for each kind of format
character, the values of the fields, and the format errors. -/

namespace Sys2Proof.Machine

/-! ### The scan, one format character at a time -/

/-- '<' (R107). -/
theorem scanFormat_littleMarker (le : Bool) (fmt data : List Byte) :
    scanFormat le (0x3C :: fmt) data = scanFormat true fmt data := rfl

/-- '>' (R107). -/
theorem scanFormat_bigMarker (le : Bool) (fmt data : List Byte) :
    scanFormat le (0x3E :: fmt) data = scanFormat false fmt data := rfl

/-- A field takes its bytes, in the byte order in force, and leaves the order as it is (R105). -/
theorem scanFormat_field {c : Byte} {k : FieldKind} (hk : fieldKind c = some k) (le : Bool)
    (fmt data : List Byte) :
    scanFormat le (c :: fmt) data =
      if data.length < k.width then none
      else (scanFormat le fmt (data.drop k.width)).map (k.value le (data.take k.width) :: ·) := by
  have hl : c ≠ 0x3C := by rintro rfl; cases hk
  have hb : c ≠ 0x3E := by rintro rfl; cases hk
  simp only [scanFormat, hl, hb, if_false, hk]

/-- A character that is neither a field nor a marker raises FATAL_FORMAT (R108). -/
theorem scanFormat_unknown {c : Byte} (hm : isMarker c = false) (hk : fieldKind c = none) (le : Bool)
    (fmt data : List Byte) : scanFormat le (c :: fmt) data = none := by
  obtain ⟨hl, hb⟩ : c ≠ 0x3C ∧ c ≠ 0x3E := by simpa [isMarker] using hm
  simp only [scanFormat, hl, hb, if_false, hk]

/-! ### Format characters -/

theorem isField_eq_isSome (c : Byte) : isField c = (fieldKind c).isSome := by
  unfold isField fieldKind
  split_ifs <;> simp_all

theorem charWidth_of_fieldKind {c : Byte} {k : FieldKind} (hk : fieldKind c = some k) :
    charWidth c = k.width := by
  unfold fieldKind at hk
  split_ifs at hk with h1 h2 h3 h4
  all_goals
    cases hk
    simp [charWidth, *]

/-- A format character is a marker, a field, or neither (R106 to R108). -/
theorem formatChar_cases (c : Byte) :
    (c = 0x3C ∨ c = 0x3E) ∨ (∃ k, fieldKind c = some k) ∨
      (isMarker c = false ∧ fieldKind c = none) := by
  by_cases hm : c = 0x3C ∨ c = 0x3E
  · exact .inl hm
  · cases hk : fieldKind c with
    | some k => exact .inr (.inl ⟨k, rfl⟩)
    | none => exact .inr (.inr ⟨decide_eq_false hm, rfl⟩)

/-- A marker only selects the order for the rest of the format (R107). -/
theorem scanFormat_marker {c : Byte} (hc : c = 0x3C ∨ c = 0x3E) :
    ∃ le', ∀ le fmt data, scanFormat le (c :: fmt) data = scanFormat le' fmt data := by
  rcases hc with rfl | rfl
  · exact ⟨true, scanFormat_littleMarker⟩
  · exact ⟨false, scanFormat_bigMarker⟩

/-! ### The values of fields (R105, R106) -/

section
variable {k : FieldKind} {le : Bool} {window : List Byte}

theorem FieldKind.value_unsigned (hk : k.signed = false) :
    k.value le window = leNat (if le then window else window.reverse) := by
  simp [FieldKind.value, hk]

/-- A signed field is the two's-complement value of the word its bytes spell. -/
theorem FieldKind.value_signed {w : BitVec (8 * k.width)} (hk : k.signed = true) (hpos : 0 < k.width)
    (hw : leNat (if le then window else window.reverse) = w.toNat) :
    k.value le window = w.toInt := by
  have htwo : 2 ^ (8 * k.width) = 2 * 2 ^ (8 * k.width - 1) := by
    rw [← Nat.pow_succ']
    congr 1
    omega
  simp only [FieldKind.value, hk, hw, Bool.true_and, decide_eq_true_eq, BitVec.toInt_eq_toNat_cond]
  by_cases h : 2 ^ (8 * k.width - 1) ≤ w.toNat
  · rw [if_pos h, if_neg (by omega)]
    push_cast
    rfl
  · rw [if_neg h, if_pos (by omega)]

end

theorem append_toNat_eq_leNat (hi lo : Byte) : (hi ++ lo).toNat = leNat [lo, hi] := by
  rw [leNat_pair, BitVec.toNat_append, Nat.or_comm]

/-- An unsigned 8-bit field has the same value in both orders (R107). -/
theorem scanFormat_u8 (le : Bool) (fmt : List Byte) (x : Byte) (data : List Byte) :
    scanFormat le (0x42 :: fmt) (x :: data) =
      (scanFormat le fmt data).map ((x.toNat : Int) :: ·) := by
  have hv : FieldKind.value ⟨1, false⟩ le [x] = x.toNat := by
    rw [FieldKind.value_unsigned rfl]
    cases le <;> rfl
  rw [scanFormat_field (k := ⟨1, false⟩) rfl]
  simp [hv]

/-- So has a signed one. -/
theorem scanFormat_s8 (le : Bool) (fmt : List Byte) (x : Byte) (data : List Byte) :
    scanFormat le (0x62 :: fmt) (x :: data) = (scanFormat le fmt data).map (x.toInt :: ·) := by
  have hv : FieldKind.value ⟨1, true⟩ le [x] = x.toInt :=
    FieldKind.value_signed rfl Nat.one_pos (by cases le <;> rfl)
  rw [scanFormat_field (k := ⟨1, true⟩) rfl]
  simp [hv]

/-- A signed 16-bit field, its high byte last in little-endian and first in big-endian order (R105). -/
theorem scanFormat_s16 (le : Bool) (fmt : List Byte) (x y : Byte) (data : List Byte) :
    scanFormat le (0x68 :: fmt) (x :: y :: data) =
      (scanFormat le fmt data).map ((if le then y ++ x else x ++ y).toInt :: ·) := by
  have hv : FieldKind.value ⟨2, true⟩ le [x, y] = (if le then y ++ x else x ++ y).toInt :=
    FieldKind.value_signed rfl Nat.two_pos (by cases le <;> exact (append_toNat_eq_leNat _ _).symm)
  rw [scanFormat_field (k := ⟨2, true⟩) rfl]
  simp [hv]

/-- In a format of 8-bit fields the byte order does not matter (R107). -/
theorem scanFormat_bytes_order_irrelevant {fmt : List Byte} (hfmt : ∀ c ∈ fmt, c = 0x62 ∨ c = 0x42)
    (le le' : Bool) (data : List Byte) : scanFormat le fmt data = scanFormat le' fmt data := by
  induction fmt generalizing data with
  | nil => rfl
  | cons c fmt ih =>
    obtain ⟨hc, hrest⟩ := List.forall_mem_cons.1 hfmt
    cases data with
    | nil => rcases hc with rfl | rfl <;> rfl
    | cons x data =>
      rcases hc with rfl | rfl
      · rw [scanFormat_s8, scanFormat_s8, ih hrest]
      · rw [scanFormat_u8, scanFormat_u8, ih hrest]

/-! ### What the scan gives -/

/-- The scan fails exactly at an unknown character or for want of bytes, in either order (R108). -/
theorem scanFormat_eq_none_iff (le : Bool) (fmt data : List Byte) :
    scanFormat le fmt data = none ↔
      (∃ c ∈ fmt, isMarker c = false ∧ isField c = false) ∨ data.length < formatWidth fmt := by
  induction fmt generalizing le data with
  | nil => simp [scanFormat_nil, formatWidth]
  | cons c fmt ih =>
    have hwidth : formatWidth (c :: fmt) = charWidth c + formatWidth fmt := by simp [formatWidth]
    rw [hwidth, List.exists_mem_cons_iff]
    rcases formatChar_cases c with hc | ⟨k, hk⟩ | ⟨hm, hk⟩
    · obtain ⟨le', hscan⟩ := scanFormat_marker hc
      have hmarker : isMarker c = true := decide_eq_true hc
      have hzero : charWidth c = 0 := by rcases hc with rfl | rfl <;> rfl
      rw [hscan, ih, hmarker, hzero]
      simp
    · have hfield : isField c = true := by rw [isField_eq_isSome, hk]; rfl
      rw [scanFormat_field hk, charWidth_of_fieldKind hk, hfield]
      by_cases hshort : data.length < k.width
      · have hlt : data.length < k.width + formatWidth fmt := by omega
        simp [hshort, hlt]
      · have hlt : data.length - k.width < formatWidth fmt ↔
            data.length < k.width + formatWidth fmt := by omega
        simp [hshort, ih, hlt]
    · have hfield : isField c = false := by rw [isField_eq_isSome, hk]; rfl
      simp [scanFormat_unknown hm hk, hm, hfield]

/-- What a scan that starts with a field has given: the field's value, then the values of the rest. -/
theorem scanFormat_field_eq_some {c : Byte} {k : FieldKind} (hk : fieldKind c = some k) {le : Bool}
    {fmt data : List Byte} {vals : List Int} (h : scanFormat le (c :: fmt) data = some vals) :
    k.width ≤ data.length ∧ ∃ rest, scanFormat le fmt (data.drop k.width) = some rest ∧
      vals = k.value le (data.take k.width) :: rest := by
  rw [scanFormat_field hk] at h
  split at h
  · cases h
  · obtain ⟨rest, hrest, rfl⟩ := Option.map_eq_some_iff.1 h
    exact ⟨by omega, rest, hrest, rfl⟩

/-- Bytes beyond the last field change nothing (R108). -/
theorem scanFormat_append {le : Bool} {fmt data : List Byte} {vals : List Int}
    (h : scanFormat le fmt data = some vals) (extra : List Byte) :
    scanFormat le fmt (data ++ extra) = some vals := by
  induction fmt generalizing le data vals with
  | nil => exact h
  | cons c fmt ih =>
    rcases formatChar_cases c with hc | ⟨k, hk⟩ | ⟨hm, hk⟩
    · obtain ⟨le', hscan⟩ := scanFormat_marker hc
      rw [hscan] at h ⊢
      exact ih h
    · obtain ⟨hlen, rest, hrest, rfl⟩ := scanFormat_field_eq_some hk h
      have hlong : ¬ (data ++ extra).length < k.width := by
        rw [List.length_append]
        omega
      rw [scanFormat_field hk, if_neg hlong, List.drop_append_of_le_length hlen,
        List.take_append_of_le_length hlen, ih hrest, Option.map_some]
    · rw [scanFormat_unknown hm hk] at h
      cases h

/-- At most one value for each format character (R106, R107). -/
theorem scanFormat_length_le {le : Bool} {fmt data : List Byte} {vals : List Int}
    (h : scanFormat le fmt data = some vals) : vals.length ≤ fmt.length := by
  induction fmt generalizing le data vals with
  | nil =>
    cases h
    rfl
  | cons c fmt ih =>
    rcases formatChar_cases c with hc | ⟨k, hk⟩ | ⟨hm, hk⟩
    · obtain ⟨le', hscan⟩ := scanFormat_marker hc
      rw [hscan] at h
      exact (ih h).trans (Nat.le_succ _)
    · obtain ⟨-, rest, hrest, rfl⟩ := scanFormat_field_eq_some hk h
      exact Nat.succ_le_succ (ih hrest)
    · rw [scanFormat_unknown hm hk] at h
      cases h

/-! ### The statements -/

/-- Settles O28: a marker's equation for each order, and a field's equation for each kind of field. -/
theorem markersSetTheByteOrderOfLaterFields : Obligations.MarkersSetTheByteOrderOfLaterFields := by
  refine ⟨fun le fmt data => ⟨rfl, rfl, rfl, fun hfmt => ?_⟩,
    fun le fmt x data => ⟨scanFormat_u8 le fmt x data, scanFormat_s8 le fmt x data⟩,
    fun fmt x y data => ⟨?_, ?_, scanFormat_s16 true fmt x y data, scanFormat_s16 false fmt x y data⟩⟩
  · exact scanFormat_bytes_order_irrelevant hfmt le true data
  · exact scanFormat_u16 true fmt x y data
  · rw [Nat.add_comm]
    exact scanFormat_u16 false fmt x y data

/-- Settles O29, from the scan in the order that stands before any marker. -/
theorem formatErrorsAreUnknownCharactersAndShortData :
    Obligations.FormatErrorsAreUnknownCharactersAndShortData :=
  ⟨scanFormat_eq_none_iff true, fun _ _ extra _ h => scanFormat_append h extra⟩

end Sys2Proof.Machine
end

section
/-! PROOFS. The adapter's commands (40_adapter.md R100 to R104): the states that an ended command leaves,
the frames that are refused, and the independence of the driver's state. -/

namespace Sys2Proof.Machine

/-! ### The states that an ended command leaves

A command that began in `s` and has played the events `es` without touching INIT stands in a state that
`Advanced` fixes in every field, so each way to end it gives the named state. -/

section
variable {i : Instr} {s t : State} {es : List Event}

theorem Advanced.respond_eq (h : Advanced (s.beginCommand i) t es) (hi : t.init = s.init)
    (st : Status) (payload : List Byte) :
    respond st payload t = s.afterCommand es.length (es ++ [.resp (st.code :: payload)]) := by
  ext1
  case trace => simp [h.trace]
  all_goals simp [h.cfg, h.mode, hi, h.busaddr, h.blackLimit, h.hyst, h.offset, h.fatalCause, h.inputs,
    h.answers, h.drawn]

theorem Advanced.fatalEntry_eq (h : Advanced (s.beginCommand i) t es) (hi : t.init = s.init) :
    fatalEntry .fatalBus t = s.afterFailure es.length es := by
  have hr := h.respond_eq hi .fatalBus []
  exact congrArg (fun u : State => { u with mode := .halted, fatalCause := 0x80 }) hr

theorem Advanced.eq_afterStall (h : Advanced (s.beginCommand i) t es) (hi : t.init = s.init) :
    t = s.afterStall i es.length (readValues es) es := by
  ext1
  case seq => simp [h.seq, State.afterStall]
  all_goals simp [State.afterStall, h.cfg, h.mode, hi, h.busaddr, h.blackLimit, h.hyst, h.offset,
    h.fatalCause, h.inputs, h.answers, h.drawn, h.trace]

end

/-! ### The rules of the adapter's commands -/

/-- The rule of WRREG and WRBUF: one write transaction, answered OK (R101, R102). -/
def writeThenOk (a : Addr) (v : List Byte) (s : State) : State :=
  (busWrite a v s).finish fun _ s => respond .ok [] s

theorem exec_wrreg (a : Addr) (r v : Byte) (s : State) :
    exec (.wrreg a r v) s = runCommand (.wrreg a r v) s (writeThenOk a [r, v]) := rfl

theorem exec_wrbuf (a : Addr) (r : Byte) (data : List Byte) (s : State) :
    exec (.wrbuf a r data) s = runCommand (.wrbuf a r data) s (writeThenOk a (r :: data)) := rfl

/-- The rule of RDBUF: the register read, answered with its bytes (R103). -/
def readThenOk (a : Addr) (r : Byte) (n : Nat) (s : State) : State :=
  (registerRead a r n s).finish fun d s => respond .ok d s

theorem exec_rdbuf (a : Addr) (r len : Byte) (s : State) :
    exec (.rdbuf a r len) s = runCommand (.rdbuf a r len) s (readThenOk a r len.toNat) := rfl

/-- The rule of DECODE: the decoder's values, or fatal entry (R104). -/
def answerDecoded (fmt data : List Byte) (s : State) : State :=
  match decodeFormat fmt data with
  | some vals => respond .ok (decodePayload vals) s
  | none => fatalEntry .fatalFormat s

theorem exec_decode (fmt data : List Byte) (s : State) :
    exec (.decode fmt data) s = runCommand (.decode fmt data) s (answerDecoded fmt data) := rfl

/-! ### One write: WRREG and WRBUF -/

section
variable {i : Instr} {s : State} {a : Addr} {v : List Byte}

theorem writeThenOk_ok (h : isOk (s.drawAt 0) = true) :
    writeThenOk a v (s.beginCommand i) = s.afterCommand 1 [.write a v (.ok []), .resp [0x00]] := by
  obtain ⟨d, hd⟩ := isOk_iff.1 h
  rw [writeThenOk, busWrite_ok (s := s.beginCommand i) hd, finish_going]
  exact (Advanced.issue_log (s.beginCommand i) _ rfl).respond_eq rfl .ok []

theorem writeThenOk_fail (h : s.drawAt 0 = .fail) :
    writeThenOk a v (s.beginCommand i) = s.afterFailure 1 [.write a v .fail] := by
  rw [writeThenOk, busWrite_fail (s := s.beginCommand i) h, finish_ended]
  exact (Advanced.issue_log (s.beginCommand i) _ rfl).fatalEntry_eq rfl

theorem writeThenOk_stall (h : s.drawAt 0 = .stall) :
    writeThenOk a v (s.beginCommand i) = s.afterStall i 1 [] [.write a v .stall] := by
  rw [writeThenOk, busWrite_stall (s := s.beginCommand i) h, finish_ended]
  exact (Advanced.issue_log (s.beginCommand i) _ rfl).eq_afterStall rfl

end

/-! ### The register read: RDBUF -/

section
variable {i : Instr} {s : State} {a : Addr} {r : Byte} {n : Nat}

theorem readThenOk_select_fail (h : s.drawAt 0 = .fail) :
    readThenOk a r n (s.beginCommand i) = s.afterFailure 1 [.write a [r] .fail] := by
  rw [readThenOk, registerRead, busWrite_fail (s := s.beginCommand i) h, bind_ended, finish_ended]
  exact (Advanced.issue_log (s.beginCommand i) _ rfl).fatalEntry_eq rfl

theorem readThenOk_select_stall (h : s.drawAt 0 = .stall) :
    readThenOk a r n (s.beginCommand i) = s.afterStall i 1 [] [.write a [r] .stall] := by
  rw [readThenOk, registerRead, busWrite_stall (s := s.beginCommand i) h, bind_ended, finish_ended]
  exact (Advanced.issue_log (s.beginCommand i) _ rfl).eq_afterStall rfl

/-- Past a completed select, RDBUF is its read transaction. -/
theorem readThenOk_selected (h : isOk (s.drawAt 0) = true) :
    readThenOk a r n s =
      (busRead a n (s.issue.log (.write a [r] (.ok [])))).finish fun d s => respond .ok d s := by
  obtain ⟨d, hd⟩ := isOk_iff.1 h
  rw [readThenOk, registerRead, busWrite_ok hd, bind_going]

theorem readThenOk_ok {d : List Byte} (h : isOk (s.drawAt 0) = true) (hd : s.drawAt 1 = .ok d)
    (hn : d.length = n) :
    readThenOk a r n (s.beginCommand i) =
      s.afterCommand 2 [.write a [r] (.ok []), .read a n (.ok d), .resp (0x00 :: d)] := by
  rw [readThenOk_selected (s := s.beginCommand i) h, busRead_ok (d := d) (by simpa using hd) hn,
    finish_going]
  have hread := (Advanced.issue_log (s.beginCommand i) (.write a [r] (.ok [])) rfl).trans
    (Advanced.issue_log_keep _ (.read a n (.ok d)) d rfl)
  exact hread.respond_eq (by simp) .ok d

theorem readThenOk_read_fail (h : isOk (s.drawAt 0) = true)
    (hr : readOutcome n (s.drawAt 1) = .fail) :
    readThenOk a r n (s.beginCommand i) =
      s.afterFailure 2 [.write a [r] (.ok []), .read a n .fail] := by
  rw [readThenOk_selected (s := s.beginCommand i) h, busRead_fail (by simpa using hr), finish_ended]
  have hread := (Advanced.issue_log (s.beginCommand i) (.write a [r] (.ok [])) rfl).trans
    (Advanced.issue_log _ (.read a n .fail) rfl)
  exact hread.fatalEntry_eq (by simp)

theorem readThenOk_read_stall (h : isOk (s.drawAt 0) = true) (hr : s.drawAt 1 = .stall) :
    readThenOk a r n (s.beginCommand i) =
      s.afterStall i 2 [] [.write a [r] (.ok []), .read a n .stall] := by
  rw [readThenOk_selected (s := s.beginCommand i) h, busRead_stall (by simpa using hr), finish_ended]
  have hread := (Advanced.issue_log (s.beginCommand i) (.write a [r] (.ok [])) rfl).trans
    (Advanced.issue_log _ (.read a n .stall) rfl)
  exact hread.eq_afterStall (by simp)

end

/-! ### DECODE -/

theorem answerDecoded_some {i : Instr} {s : State} {fmt data : List Byte} {vals : List Int}
    (h : decodeFormat fmt data = some vals) :
    answerDecoded fmt data (s.beginCommand i) =
      s.afterCommand 0 [.resp (0x00 :: BitVec.ofNat 8 vals.length :: vals.flatMap s32le)] := by
  simp only [answerDecoded, h]
  rfl

theorem answerDecoded_none {i : Instr} {s : State} {fmt data : List Byte}
    (h : decodeFormat fmt data = none) :
    answerDecoded fmt data (s.beginCommand i) =
      { s.afterCommand 0 [.resp [0x81]] with mode := .halted, fatalCause := 0x81 } := by
  simp only [answerDecoded, h]
  rfl

/-! ### Refused frames (30_encoding.md R75, R76) -/

/-- A frame of an assigned opcode whose operand bytes read as no command is answered ILLEGAL_OPERAND
(60_exceptions.md R223). -/
theorem refusedOperands_of_no_operands {op : Byte} {rest : List Byte} {row : OpcodeRow}
    (hrow : opcodeRow op = some row) (h : ∀ i, row.operands rest ≠ some i) :
    refusedOperands (op :: rest) := by
  intro s inputs hmode hseq hin hcalm
  have hdec : decode (op :: rest) = .error .illegalOperand := by
    simp only [decode, hrow, Option.eq_none_iff_forall_ne_some.2 h]
  have hdisp : dispatchFrame (op :: rest) s = .error .illegalOperand := by
    simp only [dispatchFrame, hmode, hdec, refusalStatus]
  have hmove : nextMove s = .command (.error .illegalOperand)
      ({ s with inputs := inputs }.log (.cmd (op :: rest))) := by
    simp only [nextMove, hin, hseq, hdisp]
  rw [step, hmove]
  simp only
  rw [endCommand_undisturbed (by exact hcalm)]
  simp [respond, State.log, Status.code, hseq]

/-- An address operand is illegal above 0x7F only (R76). -/
theorem toNat_le_of_addrOperand {b : Byte} {a : Addr} (h : addrOperand b = some a) :
    b.toNat ≤ 0x7F := by
  unfold addrOperand at h
  split at h
  · assumption
  · cases h

theorem operandsWB_eq_some {bs : List Byte} {i : Instr} (h : operandsWB bs = some i) :
    ∃ b r v a, bs = [b, r, v] ∧ addrOperand b = some a ∧ i = .wrreg a r v := by
  unfold operandsWB at h
  split at h
  · obtain ⟨a, ha, rfl⟩ := Option.map_eq_some_iff.1 h
    exact ⟨_, _, _, a, rfl, ha, rfl⟩
  · cases h

theorem operandsWN_eq_some {bs : List Byte} {i : Instr} (h : operandsWN bs = some i) :
    ∃ b r n data a, bs = b :: r :: n :: data ∧ data.length = n.toNat ∧ addrOperand b = some a ∧
      i = .wrbuf a r data := by
  unfold operandsWN at h
  split at h
  · split at h
    · obtain ⟨a, ha, rfl⟩ := Option.map_eq_some_iff.1 h
      exact ⟨_, _, _, _, a, rfl, ‹_›, ha, rfl⟩
    · cases h
  · cases h

theorem operandsRB_eq_some {bs : List Byte} {i : Instr} (h : operandsRB bs = some i) :
    ∃ b r len a, bs = [b, r, len] ∧ 1 ≤ len.toNat ∧ addrOperand b = some a ∧
      i = .rdbuf a r len := by
  unfold operandsRB at h
  split at h
  · split at h
    · obtain ⟨a, ha, rfl⟩ := Option.map_eq_some_iff.1 h
      exact ⟨_, _, _, a, rfl, ‹_›, ha, rfl⟩
    · cases h
  · cases h

theorem operandsDF_eq_some {bs : List Byte} {i : Instr} (h : operandsDF bs = some i) :
    ∃ flen fmt blen data, bs = flen :: (fmt ++ blen :: data) ∧ fmt.length = flen.toNat ∧
      data.length = blen.toNat ∧ i = .decode fmt data := by
  unfold operandsDF at h
  split at h
  · rename_i flen rest
    split at h
    · rename_i blen data hdrop
      split at h
      · cases h
        refine ⟨flen, rest.take flen.toNat, blen, data, ?_, ?_, ‹_›, rfl⟩
        · rw [← hdrop, List.take_append_drop]
        · have hlen := congrArg List.length hdrop
          simp only [List.length_drop, List.length_cons] at hlen
          rw [List.length_take]
          omega
      · cases h
    · cases h
  · cases h

/-! ### The driver's state -/

/-- The driver's fields of the state: INIT, BUSADDR and the classification parameters (10_state.md R22
to R26). -/
structure DriverFields where
  init : Bool
  busaddr : Addr
  blackLimit : S32
  hyst : S32
  offset : S32

def State.driver (s : State) : DriverFields :=
  ⟨s.init, s.busaddr, s.blackLimit, s.hyst, s.offset⟩

/-- `s` with other values in the driver's fields. -/
def State.withDriver (s : State) (d : DriverFields) : State :=
  { s with
    init := d.init, busaddr := d.busaddr, blackLimit := d.blackLimit, hyst := d.hyst
    offset := d.offset }

@[simp] theorem withDriver_driver (s : State) : s.withDriver s.driver = s := rfl
@[simp] theorem driver_withDriver (s : State) (d : DriverFields) : (s.withDriver d).driver = d := rfl

/-- A stretch of a command, with other values in the driver's fields of the state it leads to. -/
def Progress.withDriver {α : Type} (p : Progress α) (d : DriverFields) : Progress α :=
  match p with
  | .going a s => .going a (s.withDriver d)
  | .ended s => .ended (s.withDriver d)

theorem drawAt_withDriver (s : State) (d : DriverFields) (k : Nat) :
    (s.withDriver d).drawAt k = s.drawAt k := rfl

theorem busWrite_withDriver (a : Addr) (v : List Byte) (s : State) (d : DriverFields) :
    busWrite a v (s.withDriver d) = (busWrite a v s).withDriver d := by
  simp only [busWrite, drawAt_withDriver]
  cases writeOutcome (s.drawAt 0) <;> rfl

theorem busRead_withDriver (a : Addr) (n : Nat) (s : State) (d : DriverFields) :
    busRead a n (s.withDriver d) = (busRead a n s).withDriver d := by
  simp only [busRead, drawAt_withDriver]
  cases readOutcome n (s.drawAt 0) <;> rfl

theorem registerRead_withDriver (a : Addr) (r : Byte) (n : Nat) (s : State) (d : DriverFields) :
    registerRead a r n (s.withDriver d) = (registerRead a r n s).withDriver d := by
  rw [registerRead, registerRead, busWrite_withDriver]
  cases busWrite a [r] s with
  | going u t => exact busRead_withDriver a n t d
  | ended t => rfl

/-- A command's rule is the same whatever stands in the driver's fields, and leaves them alone. -/
def IgnoresDriver (body : State → State) : Prop :=
  ∀ (s : State) (d : DriverFields), body (s.withDriver d) = (body s).withDriver d

theorem writeThenOk_ignoresDriver (a : Addr) (v : List Byte) : IgnoresDriver (writeThenOk a v) := by
  intro s d
  rw [writeThenOk, writeThenOk, busWrite_withDriver]
  cases busWrite a v s <;> rfl

theorem readThenOk_ignoresDriver (a : Addr) (r : Byte) (n : Nat) :
    IgnoresDriver (readThenOk a r n) := by
  intro s d
  rw [readThenOk, readThenOk, registerRead_withDriver]
  cases registerRead a r n s <;> rfl

theorem answerDecoded_ignoresDriver (fmt data : List Byte) :
    IgnoresDriver (answerDecoded fmt data) := by
  intro s d
  unfold answerDecoded
  cases decodeFormat fmt data <;> rfl

/-- The checks of 60_exceptions.md R228 do not read the driver's fields. -/
theorem runCommand_withDriver {i : Instr} {s t : State} {body : State → State}
    (hbody : IgnoresDriver body) (h : runCommand i s body = .next t) (d : DriverFields) :
    runCommand i (s.withDriver d) body = .next (t.withDriver d) := by
  cases hm : s.mode with
  | halted =>
    rw [runCommand_halted hm] at h
    cases h
    exact runCommand_halted hm
  | run =>
    cases hw : i.wf with
    | true =>
      rw [runCommand_run hm hw] at h
      cases h
      rw [runCommand_run (by exact hm) hw, ← hbody]
      rfl
    | false =>
      rw [runCommand_illegal hm hw] at h
      cases h
      exact runCommand_illegal hm hw

/-! ### The only state effect is fatal entry -/

/-- MODE and FATAL_CAUSE are kept, or the block has taken a fatal entry (60_exceptions.md R229). -/
def KeptOrFatal (s t : State) : Prop :=
  (t.mode = s.mode ∧ t.fatalCause = s.fatalCause) ∨
    (t.mode = .halted ∧ (t.fatalCause = 0x80 ∨ t.fatalCause = 0x81))

/-- Transactions and then a response: a failed transaction is the one way to halt. -/
theorem Follows.keptOrFatal {α : Type} {s : State} {ts : List Txn} {p : Progress α}
    (h : Follows s ts p) (st : Status) (payload : α → List Byte) :
    KeptOrFatal s (p.finish fun a t => respond st (payload a) t) := by
  cases p with
  | going a t =>
    obtain ⟨_, ha⟩ := Follows.going_iff.1 h
    exact .inl ⟨ha.mode, ha.fatalCause⟩
  | ended t =>
    rcases Follows.ended_iff.1 h with ⟨_, u, _, rfl⟩ | ⟨_, ha⟩
    · exact .inr ⟨rfl, .inl rfl⟩
    · exact .inl ⟨ha.mode, ha.fatalCause⟩

theorem answerDecoded_keptOrFatal (fmt data : List Byte) (s : State) :
    KeptOrFatal s (answerDecoded fmt data s) := by
  unfold answerDecoded
  cases decodeFormat fmt data with
  | none => exact .inr ⟨rfl, .inr rfl⟩
  | some vals => exact .inl ⟨rfl, rfl⟩

theorem runCommand_keptOrFatal {i : Instr} {s t : State} {body : State → State}
    (hbody : ∀ u, KeptOrFatal u (body u)) (h : runCommand i s body = .next t) : KeptOrFatal s t := by
  cases hm : s.mode with
  | halted =>
    rw [runCommand_halted hm] at h
    cases h
    exact .inl ⟨rfl, rfl⟩
  | run =>
    cases hw : i.wf with
    | true =>
      rw [runCommand_run hm hw] at h
      cases h
      exact hbody (s.beginCommand i)
    | false =>
      rw [runCommand_illegal hm hw] at h
      cases h
      exact .inl ⟨rfl, rfl⟩

/-- Every adapter command is a rule under the common checks that ignores the driver's fields and has no
state effect but fatal entry (R100). -/
theorem adapter_exec {i : Instr} (h : isAdapter i = true) :
    ∃ body : State → State, (∀ s, exec i s = runCommand i s body) ∧ IgnoresDriver body ∧
      ∀ s, KeptOrFatal s (body s) := by
  cases i with
  | wrreg a r v =>
    exact ⟨_, exec_wrreg a r v, writeThenOk_ignoresDriver a [r, v],
      fun s => (busWrite_follows a [r, v] s).keptOrFatal .ok fun _ => []⟩
  | wrbuf a r data =>
    exact ⟨_, exec_wrbuf a r data, writeThenOk_ignoresDriver a (r :: data),
      fun s => (busWrite_follows a (r :: data) s).keptOrFatal .ok fun _ => []⟩
  | rdbuf a r len =>
    exact ⟨_, exec_rdbuf a r len, readThenOk_ignoresDriver a r len.toNat,
      fun s => (registerRead_follows a r len.toNat s).keptOrFatal .ok fun d => d⟩
  | decode fmt data =>
    exact ⟨_, exec_decode fmt data, answerDecoded_ignoresDriver fmt data,
      answerDecoded_keptOrFatal fmt data⟩
  | _ => cases h

/-! ### The statements -/

/-- Settles O23. That the driver's fields are left as they were follows from the independence of them:
putting back the values they already have changes nothing before the command, so nothing after it. -/
theorem adapterCommandsIgnoreDriverState : Obligations.AdapterCommandsIgnoreDriverState := by
  intro i s t init addr bl hy off hadapter hexec
  obtain ⟨body, hbody, hignores, hkept⟩ := adapter_exec hadapter
  rw [hbody] at hexec
  have hput : t = t.withDriver s.driver := by
    have h := runCommand_withDriver hignores hexec s.driver
    rw [withDriver_driver, hexec] at h
    exact Host.Outcome.next.inj h
  have hsame : t.driver = s.driver := (congrArg State.driver hput).trans (driver_withDriver t _)
  refine ⟨?_, congrArg DriverFields.init hsame, congrArg DriverFields.busaddr hsame,
    congrArg DriverFields.blackLimit hsame, congrArg DriverFields.hyst hsame,
    congrArg DriverFields.offset hsame, runCommand_keptOrFatal hkept hexec⟩
  rw [hbody]
  exact runCommand_withDriver hignores hexec ⟨init, addr, bl, hy, off⟩

/-- Settles O24, on each outcome of the one write transaction. -/
theorem wrregWritesOneRegisterByte : Obligations.WrregWritesOneRegisterByte := by
  refine ⟨fun a r v s hm => ⟨rfl, ?_⟩, fun rest hbad => ?_⟩
  · rw [exec_wrreg, runCommand_run hm rfl]
    exact ⟨fun h => congrArg _ (writeThenOk_ok h), fun h => congrArg _ (writeThenOk_fail h),
      fun h => congrArg _ (writeThenOk_stall h)⟩
  · refine refusedOperands_of_no_operands (row := ⟨0x01, "WRREG", .WB, operandsWB⟩) rfl
      fun i hi => ?_
    obtain ⟨b, r, v, a, rfl, ha, -⟩ := operandsWB_eq_some hi
    rcases hbad with hlen | ⟨_, ⟨⟩, hlt⟩
    · exact hlen rfl
    · exact absurd (toNat_le_of_addrOperand ha) (by omega)

/-- Settles O25, on each outcome of the one write transaction. -/
theorem wrbufWritesOneTransaction : Obligations.WrbufWritesOneTransaction := by
  refine ⟨fun a r data s hm hlen => ⟨rfl, ?_⟩, fun rest hbad => ?_⟩
  · rw [exec_wrbuf, runCommand_run hm (by simpa [Instr.wf, fitsCount] using hlen)]
    exact ⟨fun h => congrArg _ (writeThenOk_ok h), fun h => congrArg _ (writeThenOk_fail h),
      fun h => congrArg _ (writeThenOk_stall h)⟩
  · refine refusedOperands_of_no_operands (row := ⟨0x02, "WRBUF", .WN, operandsWN⟩) rfl
      fun i hi => ?_
    obtain ⟨b, r, n, data, a, rfl, hdata, ha, -⟩ := operandsWN_eq_some hi
    rcases hbad with hlen | ⟨_, ⟨⟩, hlt⟩
    · refine hlen n rfl ?_
      simp only [List.length_cons]
      omega
    · exact absurd (toNat_le_of_addrOperand ha) (by omega)

/-- Settles O26, on each outcome of the select and of the read. -/
theorem rdbufSelectsThenReads : Obligations.RdbufSelectsThenReads := by
  refine ⟨fun a r len s hm hlen => ⟨rfl, ?_⟩, fun rest hbad => ?_⟩
  · rw [exec_rdbuf, runCommand_run hm (by simpa [Instr.wf, fitsCount] using hlen)]
    exact ⟨fun d h hd hn => congrArg _ (readThenOk_ok h hd hn),
      fun h => congrArg _ (readThenOk_select_fail h),
      fun h hr => congrArg _ (readThenOk_read_fail h hr),
      fun h => congrArg _ (readThenOk_select_stall h),
      fun h hr => congrArg _ (readThenOk_read_stall h hr)⟩
  · refine refusedOperands_of_no_operands (row := ⟨0x03, "RDBUF", .RB, operandsRB⟩) rfl
      fun i hi => ?_
    obtain ⟨b, r, len, a, rfl, hlen, ha, -⟩ := operandsRB_eq_some hi
    rcases hbad with hne | ⟨_, ⟨⟩, hlt⟩ | ⟨⟨⟩⟩
    · exact hne rfl
    · exact absurd (toNat_le_of_addrOperand ha) (by omega)
    · exact absurd hlen (by decide)

/-- Settles O27, where the decoder gives values and where it raises FATAL_FORMAT. -/
theorem decodeAnswersTheValuesOrHalts : Obligations.DecodeAnswersTheValuesOrHalts := by
  refine ⟨fun fmt data s hm hfmt hdata => ⟨rfl, ?_⟩, fun rest hbad => ?_⟩
  · rw [exec_decode, runCommand_run hm (by simp [Instr.wf, fitsCount, hfmt, hdata])]
    exact ⟨fun vals hv => ⟨scanFormat_length_le hv, congrArg _ (answerDecoded_some hv)⟩,
      fun hn => congrArg _ (answerDecoded_none hn)⟩
  · refine refusedOperands_of_no_operands (row := ⟨0x04, "DECODE", .DF, operandsDF⟩) rfl
      fun i hi => ?_
    obtain ⟨flen, fmt, blen, data, rfl, hfmt, hdata, -⟩ := operandsDF_eq_some hi
    refine hbad flen blen rfl ?_ ?_
    · rw [Nat.add_comm, List.getElem?_cons_succ, ← hfmt, List.getElem?_append_right (le_refl _),
        Nat.sub_self, List.getElem?_cons_zero]
    · simp only [List.length_cons, List.length_append]
      omega

end Sys2Proof.Machine
end

section
/-! PROOFS. The driver's setup and configuration commands (41_driver_config.md R130 to R136): the ways
EnsureSetup can end a command, the tick counts of an integration time, and SETPARAM. -/

namespace Sys2Proof.Machine

/-! ### Integration time (R134) -/

/-- Two clamped numbers agree only where they were equal or the clamp hides the difference. -/
theorem clamp_eq_clamp_iff {lo hi x y : Int} (hlohi : lo < hi) (hxy : x ≤ y) :
    clamp lo hi x = clamp lo hi y ↔ x = y ∨ y ≤ lo ∨ hi ≤ x := by
  unfold clamp
  omega

theorem itimeTicks_floorTicks (t : Int) :
    itimeTicks .floorTicks t = clamp 0 255 ⌊(10 * (t : ℚ)) / 24⌋ := by
  have hfloor : ⌊(10 * (t : ℚ)) / 24⌋ = 10 * t / 24 := by
    exact_mod_cast Rat.floor_intCast_div_natCast (10 * t) 24
  rw [hfloor, itimeTicks]

theorem itimeTicks_ceilTicks (t : Int) :
    itimeTicks .ceilTicks t = clamp 0 255 ⌈(10 * (t : ℚ)) / 24⌉ := by
  have hceil : ⌈(10 * (t : ℚ)) / 24⌉ = -(-(10 * t) / 24) := by
    exact_mod_cast Rat.ceil_intCast_div_natCast (10 * t) 24
  rw [hceil, itimeTicks]

/-- The quotient 10t/24 in lowest terms. -/
theorem itimeTicks_floorTicks_eq_div (t : Int) :
    itimeTicks .floorTicks t = clamp 0 255 (5 * t / 12) := by
  have hdiv : 10 * t / 24 = 5 * t / 12 := by omega
  rw [itimeTicks, hdiv]

theorem itimeTicks_floorTicks_eq_ceilTicks_iff (t : Int) :
    itimeTicks .floorTicks t = itimeTicks .ceilTicks t ↔ 12 ∣ t ∨ t ≤ 0 ∨ 612 ≤ t := by
  have hle : 10 * t / 24 ≤ -(-(10 * t) / 24) := by omega
  have hexact : 10 * t / 24 = -(-(10 * t) / 24) ↔ 12 ∣ t := by omega
  have hlow : -(-(10 * t) / 24) ≤ 0 ↔ t ≤ 0 := by omega
  have hhigh : 255 ≤ 10 * t / 24 ↔ 612 ≤ t := by omega
  rw [itimeTicks, itimeTicks, clamp_eq_clamp_iff (by decide) hle, hexact, hlow, hhigh]

/-! ### The ways EnsureSetup can end a command (R130)

With INIT clear, each of the two setup writes can fail or stall, and then no command that calls
EnsureSetup goes on. -/

section
variable {i : Instr} {s : State}

theorem ensureSetup_enable_fail (hi : s.init = false) (h : s.drawAt 0 = .fail) :
    ensureSetup (s.beginCommand i) =
      .ended (s.afterFailure 1 [.write s.busaddr [0x80, 0x03] .fail]) := by
  rw [ensureSetup_of_not_init (s := s.beginCommand i) hi, busWrite_fail (s := s.beginCommand i) h,
    bind_ended]
  exact congrArg _ ((Advanced.issue_log (s.beginCommand i) _ rfl).fatalEntry_eq rfl)

theorem ensureSetup_enable_stall (hi : s.init = false) (h : s.drawAt 0 = .stall) :
    ensureSetup (s.beginCommand i) =
      .ended (s.afterStall i 1 [] [.write s.busaddr [0x80, 0x03] .stall]) := by
  rw [ensureSetup_of_not_init (s := s.beginCommand i) hi, busWrite_stall (s := s.beginCommand i) h,
    bind_ended]
  exact congrArg _ ((Advanced.issue_log (s.beginCommand i) _ rfl).eq_afterStall rfl)

/-- Past a completed enable write, EnsureSetup is its timing write and the setting of INIT. -/
theorem ensureSetup_enabled (hi : s.init = false) (h : isOk (s.drawAt 0) = true) :
    ensureSetup s =
      (busWrite s.busaddr [0x81, 0x2B] (s.issue.log (.write s.busaddr [0x80, 0x03] (.ok [])))).bind
        fun _ s => .going () s.markInit := by
  obtain ⟨d, hd⟩ := isOk_iff.1 h
  rw [ensureSetup_of_not_init hi, busWrite_ok hd, bind_going, log_busaddr, issue_busaddr]

/-- The two setup writes issued, the first completed and the second with any outcome. -/
theorem advanced_setup_writes (s : State) (o : BusOutcome) :
    Advanced s
      ((s.issue.log (.write s.busaddr [0x80, 0x03] (.ok []))).issue.log
        (.write s.busaddr [0x81, 0x2B] o))
      [.write s.busaddr [0x80, 0x03] (.ok []), .write s.busaddr [0x81, 0x2B] o] :=
  (Advanced.issue_log s _ rfl).trans (Advanced.issue_log _ _ rfl)

theorem ensureSetup_timing_fail (hi : s.init = false) (h : isOk (s.drawAt 0) = true)
    (ht : s.drawAt 1 = .fail) :
    ensureSetup (s.beginCommand i) =
      .ended (s.afterFailure 2
        [.write s.busaddr [0x80, 0x03] (.ok []), .write s.busaddr [0x81, 0x2B] .fail]) := by
  rw [ensureSetup_enabled (s := s.beginCommand i) hi h, busWrite_fail (by simpa using ht), bind_ended]
  exact congrArg _ ((advanced_setup_writes (s.beginCommand i) .fail).fatalEntry_eq rfl)

theorem ensureSetup_timing_stall (hi : s.init = false) (h : isOk (s.drawAt 0) = true)
    (ht : s.drawAt 1 = .stall) :
    ensureSetup (s.beginCommand i) =
      .ended (s.afterStall i 2 []
        [.write s.busaddr [0x80, 0x03] (.ok []), .write s.busaddr [0x81, 0x2B] .stall]) := by
  rw [ensureSetup_enabled (s := s.beginCommand i) hi h, busWrite_stall (by simpa using ht),
    bind_ended]
  exact congrArg _ ((advanced_setup_writes (s.beginCommand i) .stall).eq_afterStall rfl)

theorem setupOk_of_isOk (h0 : isOk (s.drawAt 0) = true) (h1 : isOk (s.drawAt 1) = true) :
    setupOk s := by
  intro k hk
  have hk2 : k < 2 := hk.trans_le (by unfold setupCount; split <;> decide)
  interval_cases k
  · exact h0
  · exact h1

end

/-! ### The response that ends a driver command -/

/-- A command that began in `s` and responds at once has issued no transaction. -/
theorem respond_beginCommand (i : Instr) (s : State) (st : Status) (payload : List Byte) :
    respond st payload (s.beginCommand i) = s.afterCommand 0 [.resp (st.code :: payload)] :=
  (Advanced.refl (s.beginCommand i)).respond_eq rfl st payload

theorem respond_further (i : Instr) (s : State) (n : Nat) (vs : List (List Byte)) (es : List Event)
    (st : Status) (payload : List Byte) :
    respond st payload ((s.beginCommand i).further n vs es) =
      { s.afterCommand n (es ++ [.resp (st.code :: payload)]) with init := true } := by
  ext1
  case trace => simp [State.further]
  all_goals rfl

/-! ### The rules of SETUP and SETPARAM -/

/-- The rule of SETUP: EnsureSetup, answered OK (R132). -/
def setupThenOk (s : State) : State :=
  (ensureSetup s).finish fun _ s => respond .ok [] s

theorem exec_setup (s : State) : exec .setup s = runCommand .setup s setupThenOk := rfl

theorem exec_setparam (bl hy off : S32) (s : State) :
    exec (.setparam bl hy off) s =
      runCommand (.setparam bl hy off) s fun s => respond .ok [] (s.setParams bl hy off) := rfl

theorem exec_setup_of_ended {s t : State} (hm : s.mode = .run)
    (h : ensureSetup (s.beginCommand .setup) = .ended t) : exec .setup s = .next t := by
  rw [exec_setup, runCommand_run hm rfl, setupThenOk, h, finish_ended]

theorem exec_setup_of_init {s : State} (hm : s.mode = .run) (hi : s.init = true) :
    exec .setup s = .next (s.afterCommand 0 [.resp [0x00]]) := by
  rw [exec_setup, runCommand_run hm rfl, setupThenOk,
    ensureSetup_of_init (s := s.beginCommand .setup) hi, finish_going, respond_beginCommand]
  rfl

theorem exec_setup_of_setupOk {s : State} (hm : s.mode = .run) (h : setupOk s) :
    exec .setup s =
      .next { s.afterCommand (setupCount s) (setupEvents s ++ [.resp [0x00]]) with init := true } := by
  rw [exec_setup, runCommand_run hm rfl, setupThenOk,
    ensureSetup_ok (s := s.beginCommand .setup) h, finish_going, respond_further]
  rfl

/-! ### The statements -/

/-- Settles O31, on each outcome of the setup writes that INIT leaves to be made. -/
theorem setupWritesTheDeviceOnce : Obligations.SetupWritesTheDeviceOnce := by
  refine ⟨rfl, fun s hm => ⟨exec_setup_of_init hm, fun hi => ⟨fun h0 h1 => ?_, ?_, ?_, ?_, ?_⟩⟩⟩
  · simpa [setupCount, setupEvents, hi] using exec_setup_of_setupOk hm (setupOk_of_isOk h0 h1)
  · exact fun h => exec_setup_of_ended hm (ensureSetup_enable_fail hi h)
  · exact fun h ht => exec_setup_of_ended hm (ensureSetup_timing_fail hi h ht)
  · exact fun h => exec_setup_of_ended hm (ensureSetup_enable_stall hi h)
  · exact fun h ht => exec_setup_of_ended hm (ensureSetup_timing_stall hi h ht)

/-- Settles O33: the model's integer divisions are the floor and the ceiling of 10t/24, which differ
where 12 does not divide t, and the clamp hides that difference for t ≤ 0 and from t = 612 on. -/
theorem ticksFollowTheExactQuotient : Obligations.TicksFollowTheExactQuotient := fun t =>
  ⟨itimeTicks_floorTicks t, itimeTicks_ceilTicks t, itimeTicks_floorTicks_eq_div t,
    itimeTicks_floorTicks_eq_ceilTicks_iff t⟩

/-- Settles O35: SETPARAM is a response at once from the state with the parameters stored. -/
theorem setparamStoresItsOperands : Obligations.SetparamStoresItsOperands := by
  intro bl hy off s hm
  refine ⟨rfl, ?_⟩
  rw [exec_setparam, runCommand_run hm rfl]
  exact congrArg _ (respond_beginCommand (.setparam bl hy off) (s.setParams bl hy off) .ok [])

end Sys2Proof.Machine
end

section
/-! PROOFS. Rounding of a normalised channel (42_readout.md R163, R166): the integer formula against the
exact quotient, and its range. -/

namespace Sys2Proof.Machine

/-- The quotient 255 · X / C moved up by the half of R166, as one fraction. -/
theorem norm_add_half_eq_div (x : Nat) {c : Nat} (hc : 0 < c) :
    (255 * (x : ℚ)) / c + 1 / 2 = ((510 * x + c : Nat) : ℚ) / (2 * c : Nat) := by
  have hc0 : (c : ℚ) ≠ 0 := Nat.cast_ne_zero.mpr hc.ne'
  push_cast
  field_simp
  ring

/-- The integer formula of R166 is its floor(q + 1/2): a quotient of naturals has the floor `div`. -/
theorem roundedNorm_eq_floor (x : Nat) {c : Nat} (hc : 0 < c) :
    (roundedNorm x c : Int) = ⌊(255 * (x : ℚ)) / c + 1 / 2⌋ := by
  rw [norm_add_half_eq_div x hc, Rat.floor_natCast_div_natCast, roundedNorm, Int.natCast_div]

/-- The rounded channel is largest at C = 1, where the quotient is the integer 255 · X. -/
theorem roundedNorm_le (x : Nat) {c : Nat} (hc : 0 < c) : roundedNorm x c ≤ 255 * x := by
  have hx : x ≤ x * c := Nat.le_mul_of_pos_right x hc
  have hnum : 510 * x + c < (255 * x + 1) * (2 * c) := by
    calc 510 * x + c < 510 * (x * c) + 2 * c := by omega
      _ = (255 * x + 1) * (2 * c) := by ring
  exact Nat.le_of_lt_succ ((Nat.div_lt_iff_lt_mul (by omega)).mpr hnum)

/-- Settles O41; 16711425 is 255 times the largest u16 count. -/
theorem roundedChannelIsTheNearestInteger : Obligations.RoundedChannelIsTheNearestInteger := by
  refine fun x c hc => ⟨roundedNorm_eq_floor x hc, fun hx => ?_⟩
  calc roundedNorm x c ≤ 255 * x := roundedNorm_le x hc
    _ ≤ 255 * 65535 := Nat.mul_le_mul_left 255 hx
    _ = 16711425 := rfl

end Sys2Proof.Machine
end

section
/-! PROOFS. The exceptional responses (60_exceptions.md R222, R223, R227, R229, R231): why the decoder
refuses a frame, what a step makes of a refused frame, and the halted block. -/

namespace Sys2Proof.Machine

/-! ### Frames that the decoder refuses (30_encoding.md R75 to R77) -/

/-- Each opcode of the map selects its own row (R74). -/
theorem opcodeRow_of_mem {row : OpcodeRow} (h : row ∈ opcodeTable) :
    opcodeRow row.opcode = some row := by
  unfold opcodeTable at h
  fin_cases h <;> rfl

theorem decode_of_noCommand {f : Frame} (h : noCommand f) : decode f = .error .illegalCommand := by
  rcases h with rfl | ⟨op, rest, rfl, hop⟩
  · rfl
  · have hrow : opcodeRow op = none := List.find?_eq_none.2 fun row hmem => by simpa using hop row hmem
    simp only [decode, hrow]

/-- The frame has the length of its format, and its operands pass the checks of R76 that its format
asks for. -/
def FrameFits (fm : Format) (f : Frame) : Prop :=
  fm.frameLength f = some f.length ∧
  (fm = .WB ∨ fm = .WN ∨ fm = .RB → ∀ a, f[1]? = some a → a.toNat ≤ 0x7F) ∧
  (fm = .RB → f[3]? ≠ some 0)

theorem badOperand_iff {f : Frame} :
    badOperand f ↔ ∃ row ∈ opcodeTable, f.head? = some row.opcode ∧ ¬ FrameFits row.format f := by
  simp only [badOperand, FrameFits, not_and_or, Classical.not_imp, not_forall, not_not, not_le,
    ne_eq]

section
variable {op : Byte} {bs : List Byte} {i j : Instr}

theorem operandsN_fits (h : operandsN j bs = some i) : FrameFits .N (op :: bs) := by
  cases bs with
  | nil => exact ⟨rfl, by simp, by simp⟩
  | cons b bs => cases h

theorem operandsWB_fits (h : operandsWB bs = some i) : FrameFits .WB (op :: bs) := by
  obtain ⟨b, r, v, a, rfl, ha, -⟩ := operandsWB_eq_some h
  exact ⟨rfl, by simpa using toNat_le_of_addrOperand ha, by simp⟩

theorem operandsWN_fits (h : operandsWN bs = some i) : FrameFits .WN (op :: bs) := by
  obtain ⟨b, r, n, data, a, rfl, hlen, ha, -⟩ := operandsWN_eq_some h
  have hle := toNat_le_of_addrOperand ha
  simp only [FrameFits, Format.frameLength, List.getElem?_cons_succ, List.getElem?_cons_zero,
    Option.map_some, List.length_cons, hlen]
  exact ⟨congrArg some (by omega), by simpa using hle, by simp⟩

theorem operandsRB_fits (h : operandsRB bs = some i) : FrameFits .RB (op :: bs) := by
  obtain ⟨b, r, len, a, rfl, hlen, ha, -⟩ := operandsRB_eq_some h
  have hne : len ≠ 0 := by
    rintro rfl
    exact absurd hlen (by decide)
  exact ⟨rfl, by simpa using toNat_le_of_addrOperand ha, by simpa using hne⟩

theorem operandsDF_fits (h : operandsDF bs = some i) : FrameFits .DF (op :: bs) := by
  obtain ⟨flen, fmt, blen, data, rfl, hfmt, hdata, -⟩ := operandsDF_eq_some h
  have hblen : (op :: flen :: (fmt ++ blen :: data))[2 + flen.toNat]? = some blen := by
    rw [← hfmt, Nat.add_comm]
    simp
  have hlen : Format.DF.frameLength (op :: flen :: (fmt ++ blen :: data)) =
      some (3 + flen.toNat + blen.toNat) := by
    simp only [Format.frameLength, List.getElem?_cons_succ, List.getElem?_cons_zero, hblen,
      Option.map_some]
  simp only [FrameFits, hlen, List.length_cons, List.length_append, hfmt, hdata]
  exact ⟨congrArg some (by omega), by simp, by simp⟩

theorem operandsT_fits (h : operandsT bs = some i) : FrameFits .T (op :: bs) := by
  unfold operandsT at h
  split at h
  · rename_i hlen
    exact ⟨by simp [Format.frameLength, hlen], by simp, by simp⟩
  · cases h

theorem operandsP_fits (h : operandsP bs = some i) : FrameFits .P (op :: bs) := by
  unfold operandsP at h
  split at h
  · rename_i hlen
    exact ⟨by simp [Format.frameLength, hlen], by simp, by simp⟩
  · cases h

/-- The operand reader of each row reads only bytes that fit the row's format. -/
theorem operands_fits {row : OpcodeRow} (hrow : row ∈ opcodeTable) (h : row.operands bs = some i) :
    FrameFits row.format (op :: bs) := by
  unfold opcodeTable at hrow
  fin_cases hrow
  · exact operandsWB_fits h
  · exact operandsWN_fits h
  · exact operandsRB_fits h
  · exact operandsDF_fits h
  · exact operandsN_fits h
  · exact operandsT_fits h
  · exact operandsP_fits h
  all_goals exact operandsN_fits h

end

/-! ### A refused frame in the step (60_exceptions.md R228, checks 1 to 4) -/

theorem dispatchFrame_halted {s : State} (h : s.mode = .halted) (f : Frame) :
    dispatchFrame f s = .error .halted := by
  simp only [dispatchFrame, h]

theorem dispatchFrame_of_decode_error {s : State} {f : Frame} {e : DecodeError} (hm : s.mode = .run)
    (h : decode f = .error e) : dispatchFrame f s = .error (refusalStatus e) := by
  simp only [dispatchFrame, hm, h]

section
variable {s : State} {f : Frame} {rest : List HostInput} {st : Status}

/-- `s` after a delivered frame, taken and observed, that was refused with the status `st`. -/
def State.afterRefusal (s : State) (f : Frame) (rest : List HostInput) (st : Status) : State :=
  { s with inputs := rest, trace := s.trace ++ [.cmd f, .resp [st.code]] }

theorem respond_delivered (hseq : s.seq = none) :
    respond st [] ({ s with inputs := rest }.log (.cmd f)) = s.afterRefusal f rest st := by
  ext1
  case seq => exact hseq.symm
  case trace => simp [State.afterRefusal]
  all_goals rfl

/-- A refused frame is answered, and only a reset asserted inside can still follow in the step. -/
theorem step_of_dispatch_error (hseq : s.seq = none) (hin : s.inputs = .command f :: rest)
    (hdisp : dispatchFrame f s = .error st) :
    step s = endCommand ({ s with inputs := rest }.log (.cmd f))
      (.next (s.afterRefusal f rest st)) := by
  have hmove : nextMove s = .command (.error st) ({ s with inputs := rest }.log (.cmd f)) := by
    simp only [nextMove, hin, hseq, hdisp]
  rw [step, hmove, ← respond_delivered hseq]

theorem step_of_dispatch_error_undisturbed (hseq : s.seq = none)
    (hin : s.inputs = .command f :: rest) (hcalm : undisturbed rest = true)
    (hdisp : dispatchFrame f s = .error st) :
    step s = .next (s.afterRefusal f rest st) :=
  (step_of_dispatch_error hseq hin hdisp).trans (endCommand_undisturbed hcalm)

end

/-- Both ways a command can end in the step: as it leaves the state, or aborted by a reset (R251). -/
theorem endCommand_next_cases (s t : State) :
    endCommand s (.next t) = .next t ∨
    ∃ k rest, endCommand s (.next t) = .next (abortAfter k rest s t) := by
  unfold endCommand
  split
  · exact .inr ⟨_, _, rfl⟩
  · exact .inl rfl

/-- The observation of an aborted command: the events it had so far, then the reset. -/
theorem abortAfter_trace (k : Nat) (rest : List HostInput) (s t : State) :
    (abortAfter k rest s t).trace =
      s.trace ++ (t.trace.drop s.trace.length).take k ++ [.reset] := rfl

/-! ### The halted block (R227, R231) -/

/-- Every command is a rule under the common checks (R228). -/
theorem exec_eq_runCommand (i : Instr) :
    ∃ body : State → State, ∀ s, exec i s = runCommand i s body := by
  cases i <;>
    simp only [exec, execWrreg, execWrbuf, execRdbuf, execDecode, execSetup, execSetitime,
      execSetparam, execRaw, execLight, execRgb, execColor, execGetred, execGetgreen, execGetblue] <;>
    exact ⟨_, fun _ => rfl⟩

theorem exec_halted (i : Instr) {s : State} (h : s.mode = .halted) :
    exec i s = .next (s.afterCommand 0 [.resp [0x82]]) := by
  obtain ⟨body, hbody⟩ := exec_eq_runCommand i
  rw [hbody, runCommand_halted h]
  rfl

/-! ### The statements -/

/-- Settles O5: such a frame has no row in the opcode map, so the dispatch refuses it. -/
theorem unassignedOpcodeAnswersIllegalCommand :
    Obligations.UnassignedOpcodeAnswersIllegalCommand := by
  intro s f rest hm hseq hin hcalm hf
  exact step_of_dispatch_error_undisturbed hseq hin hcalm
    (dispatchFrame_of_decode_error hm (decode_of_noCommand hf))

/-- Settles O6: the operand reader of the frame's row would read only a frame that fits the format. -/
theorem badFrameAnswersIllegalOperand : Obligations.BadFrameAnswersIllegalOperand := by
  intro s f rest hm hseq hin hcalm hf
  obtain ⟨row, hrow, hop, hfit⟩ := badOperand_iff.1 hf
  obtain ⟨bs, rfl⟩ := List.head?_eq_some_iff.1 hop
  exact refusedOperands_of_no_operands (opcodeRow_of_mem hrow)
    (fun _ hi => hfit (operands_fits hrow hi)) s rest hm hseq hin hcalm

/-- Settles O16, on each thing the next input can do; a frame answered HALTED may have a reset asserted
inside it, which leaves of its events at most the response. -/
theorem onlyResetLeavesHalted : Obligations.OnlyResetLeavesHalted := by
  intro s t hm hstep
  rcases nextMove_cases s with ⟨_, hmove⟩ | ⟨_, rest, _, _, hmove⟩ | ⟨_, _, _, _, _, hmove⟩ |
    ⟨f, rest, hin, hseq, _⟩
  case inl | inr.inr.inl =>
    rw [step, hmove] at hstep
    cases hstep
    exact .inl rfl
  case inr.inl =>
    rw [step, hmove] at hstep
    cases hstep
    exact .inr (.inr ⟨rfl, [], by simp [restReset], by simp⟩)
  case inr.inr.inr =>
    rw [step_of_dispatch_error hseq hin (dispatchFrame_halted hm f)] at hstep
    rcases endCommand_next_cases ({ s with inputs := rest }.log (.cmd f))
      (s.afterRefusal f rest .halted) with hend | ⟨k, rest', hend⟩
    · rw [hend] at hstep
      cases hstep
      exact .inr (.inl ⟨f, rest, hin, rfl⟩)
    · rw [hend] at hstep
      cases hstep
      refine .inr (.inr ⟨rfl, .cmd f :: [Event.resp [0x82]].take k, ?_, ?_⟩)
      · simp [abortAfter_trace, State.afterRefusal, Status.code]
      · intro e he
        rcases List.mem_cons.1 he with rfl | he
        · rfl
        · rw [List.mem_singleton.1 (List.mem_of_mem_take he)]
          rfl

/-- Settles O7: HALTED is the first check, of the dispatch and of every command's meaning. -/
theorem haltedBlockAnswersHalted : Obligations.HaltedBlockAnswersHalted :=
  ⟨fun _ f _ hm hseq hin hcalm =>
    step_of_dispatch_error_undisturbed hseq hin hcalm (dispatchFrame_halted hm f),
    fun i _ hm => exec_halted i hm⟩

/-- Settles O15: fatal entry is a response from the state with MODE and FATAL_CAUSE set. -/
theorem fatalEntryHaltsWithItsCause : Obligations.FatalEntryHaltsWithItsCause :=
  fun _ _ => rfl

end Sys2Proof.Machine
end

section
namespace Sys2Proof.Machine

/-! ### The reset input (70_reset_and_hazards.md R250) -/

/-- A move that executes no command is the whole step. -/
theorem step_of_rest {s t : State} (h : nextMove s = .rest t) : step s = .next t := by
  rw [step, h]

/-- MODE and the sequencer position are not consulted: the reset input reaches any block. -/
theorem nextMove_of_reset {s : State} {rest : List HostInput} (h : s.inputs = .reset :: rest) :
    nextMove s = .rest (restReset rest s) := by
  simp only [nextMove, h]

/-- The table of R250, with the values of R7 written out. -/
theorem restReset_eq (rest : List HostInput) (s : State) :
    restReset rest s =
      { s with
        mode := .run, init := false, busaddr := s.cfg.devAddr, blackLimit := 1000, hyst := 25
        offset := 1100, fatalCause := 0x00, seq := none, inputs := rest
        trace := s.trace ++ [.reset] } := rfl

/-- Settles O12: the reset input is the whole step, and it leaves the state of R250's table. -/
theorem resetInputRestoresResetValues : Obligations.ResetInputRestoresResetValues := by
  refine ⟨rfl, fun s rest hin => ?_⟩
  rw [step_of_rest (nextMove_of_reset hin), restReset_eq]

end Sys2Proof.Machine
end

section
/-! PROOFS. Command frames (30_encoding.md R71 to R77): the decoder reads a frame by the row of its
opcode, each operand reader and the encoder undo each other, and a reader accepts every frame that
fits its format. -/

namespace Sys2Proof.Machine

/-! ### The decoder by the rows of the opcode map -/

theorem opcodeRow_eq_some {op : Byte} {row : OpcodeRow} (h : opcodeRow op = some row) :
    row ∈ opcodeTable ∧ row.opcode = op :=
  ⟨List.mem_of_find?_eq_some h, by simpa using List.find?_some h⟩

theorem decode_of_row {op : Byte} {row : OpcodeRow} {bs : List Byte} {i : Instr}
    (hrow : opcodeRow op = some row) (h : row.operands bs = some i) :
    decode (op :: bs) = .ok i := by
  simp only [decode, hrow, h]

/-- A frame carries a command exactly where the row of its opcode reads one from the operands. -/
theorem decode_eq_ok_iff {f : Frame} {i : Instr} :
    decode f = .ok i ↔
      ∃ row ∈ opcodeTable, ∃ bs, f = row.opcode :: bs ∧ row.operands bs = some i := by
  constructor
  · intro h
    cases f with
    | nil => cases h
    | cons op bs =>
      cases hrow : opcodeRow op with
      | none => simp [decode, hrow] at h
      | some row =>
        obtain ⟨hmem, rfl⟩ := opcodeRow_eq_some hrow
        cases hi : row.operands bs with
        | none => simp [decode, hrow, hi] at h
        | some j =>
          simp only [decode, hrow, hi, Except.ok.injEq] at h
          exact ⟨row, hmem, bs, rfl, h ▸ hi⟩
  · rintro ⟨row, hmem, bs, rfl, hi⟩
    exact decode_of_row (opcodeRow_of_mem hmem) hi

/-- The decoder answers "no command" only where the opcode has no row (R77). -/
theorem noCommand_of_decode {f : Frame} (h : decode f = .error .illegalCommand) : noCommand f := by
  cases f with
  | nil => exact .inl rfl
  | cons op bs =>
    cases hrow : opcodeRow op with
    | none =>
      refine .inr ⟨op, bs, rfl, fun row hmem heq => ?_⟩
      rw [← heq, opcodeRow_of_mem hmem] at hrow
      cases hrow
    | some row => cases hi : row.operands bs <;> simp [decode, hrow, hi] at h

/-- The decoder answers "bad operand" exactly where a row's reader refuses the operand bytes. -/
theorem decode_eq_illegalOperand_iff {f : Frame} :
    decode f = .error .illegalOperand ↔
      ∃ row ∈ opcodeTable, ∃ bs, f = row.opcode :: bs ∧ row.operands bs = none := by
  constructor
  · intro h
    cases f with
    | nil => cases h
    | cons op bs =>
      cases hrow : opcodeRow op with
      | none => simp [decode, hrow] at h
      | some row =>
        obtain ⟨hmem, rfl⟩ := opcodeRow_eq_some hrow
        cases hi : row.operands bs with
        | none => exact ⟨row, hmem, bs, rfl, hi⟩
        | some j => simp [decode, hrow, hi] at h
  · rintro ⟨row, hmem, bs, rfl, hi⟩
    simp only [decode, opcodeRow_of_mem hmem, hi]

/-! ### The readers on encoded operands (R72, R73) -/

theorem operandsWB_encoded (a : Addr) (r v : Byte) :
    operandsWB [a.setWidth 8, r, v] = some (.wrreg a r v) := by
  simp [operandsWB]

theorem operandsWN_encoded (a : Addr) (r : Byte) {data : List Byte} (h : fitsCount data = true) :
    operandsWN (a.setWidth 8 :: r :: counted data) = some (.wrbuf a r data) := by
  rw [counted, operandsWN, count_toNat h]
  simp

theorem operandsRB_encoded (a : Addr) (r : Byte) {len : Byte} (h : 1 ≤ len.toNat) :
    operandsRB [a.setWidth 8, r, len] = some (.rdbuf a r len) := by
  simp [operandsRB, h]

theorem operandsDF_encoded {fmt data : List Byte} (hf : fitsCount fmt = true)
    (hd : fitsCount data = true) :
    operandsDF (counted fmt ++ counted data) = some (.decode fmt data) := by
  simp [counted, operandsDF, count_toNat hf, count_toNat hd]

theorem operandsT_encoded (t : S32) : operandsT (s32Bytes t) = some (.setitime t) := by
  simp [operandsT]

theorem operandsP_encoded (bl hy off : S32) :
    operandsP (s32Bytes bl ++ s32Bytes hy ++ s32Bytes off) = some (.setparam bl hy off) := by
  have hdrop : (s32Bytes bl ++ (s32Bytes hy ++ s32Bytes off)).drop 8 = s32Bytes off := by
    rw [← List.append_assoc]
    exact List.drop_left' (by simp)
  simp [operandsP, hdrop]

/-! ### The frame of a command that was read -/

section
variable {bs : List Byte} {i j : Instr}

theorem ofNat_length_of_eq {data : List Byte} {n : Byte} (h : data.length = n.toNat) :
    BitVec.ofNat 8 data.length = n := by
  rw [h, BitVec.ofNat_toNat, BitVec.setWidth_eq]

theorem fitsCount_of_eq {data : List Byte} {n : Byte} (h : data.length = n.toNat) :
    fitsCount data = true := by
  have hn : n.toNat < 256 := n.isLt
  exact decide_eq_true (by omega)

theorem operandsN_eq_some (h : operandsN j bs = some i) : bs = [] ∧ i = j := by
  cases bs with
  | nil => exact ⟨rfl, (Option.some.inj h).symm⟩
  | cons b bs => cases h

theorem operandsWB_read (h : operandsWB bs = some i) : i.wf = true ∧ encode i = 0x01 :: bs := by
  obtain ⟨b, r, v, a, rfl, ha, rfl⟩ := operandsWB_eq_some h
  exact ⟨rfl, by rw [encode, setWidth_of_addrOperand ha]⟩

theorem operandsWN_read (h : operandsWN bs = some i) : i.wf = true ∧ encode i = 0x02 :: bs := by
  obtain ⟨b, r, n, data, a, rfl, hlen, ha, rfl⟩ := operandsWN_eq_some h
  exact ⟨fitsCount_of_eq hlen,
    by rw [encode, counted, setWidth_of_addrOperand ha, ofNat_length_of_eq hlen]⟩

theorem operandsRB_read (h : operandsRB bs = some i) : i.wf = true ∧ encode i = 0x03 :: bs := by
  obtain ⟨b, r, len, a, rfl, hlen, ha, rfl⟩ := operandsRB_eq_some h
  exact ⟨decide_eq_true hlen, by rw [encode, setWidth_of_addrOperand ha]⟩

theorem operandsDF_read (h : operandsDF bs = some i) : i.wf = true ∧ encode i = 0x04 :: bs := by
  obtain ⟨flen, fmt, blen, data, rfl, hfmt, hdata, rfl⟩ := operandsDF_eq_some h
  refine ⟨by rw [Instr.wf, fitsCount_of_eq hfmt, fitsCount_of_eq hdata]; rfl, ?_⟩
  rw [encode, counted, counted, ofNat_length_of_eq hfmt, ofNat_length_of_eq hdata, List.cons_append]

theorem operandsT_read (h : operandsT bs = some i) : i.wf = true ∧ encode i = 0x11 :: bs := by
  unfold operandsT at h
  split at h
  · rename_i hlen
    cases h
    exact ⟨rfl, by rw [encode, s32Bytes_s32Of hlen]⟩
  · cases h

theorem operandsP_read (h : operandsP bs = some i) : i.wf = true ∧ encode i = 0x12 :: bs := by
  unfold operandsP at h
  split at h
  · rename_i hlen
    cases h
    refine ⟨rfl, ?_⟩
    rw [encode, s32Bytes_s32Of (by simp [hlen]), s32Bytes_s32Of (by simp [hlen]),
      s32Bytes_s32Of (by simp [hlen]), List.append_assoc, ← List.drop_drop (i := 4) (j := 4),
      List.take_append_drop, List.take_append_drop]
  · cases h

/-- A command of format N is its opcode alone. -/
theorem operandsN_read {op : Byte} (hj : j.wf = true) (henc : encode j = [op])
    (h : operandsN j bs = some i) : i.wf = true ∧ encode i = op :: bs := by
  obtain ⟨rfl, rfl⟩ := operandsN_eq_some h
  exact ⟨hj, henc⟩

/-- What a row reads is well formed, and its frame is the one read. -/
theorem operands_read {row : OpcodeRow} (hrow : row ∈ opcodeTable) (h : row.operands bs = some i) :
    i.wf = true ∧ encode i = row.opcode :: bs := by
  unfold opcodeTable at hrow
  fin_cases hrow
  · exact operandsWB_read h
  · exact operandsWN_read h
  · exact operandsRB_read h
  · exact operandsDF_read h
  · exact operandsN_read rfl rfl h
  · exact operandsT_read h
  · exact operandsP_read h
  all_goals exact operandsN_read rfl rfl h

end

/-! ### The readers accept the frames that fit (R75, R76) -/

section
variable {op : Byte} {bs : List Byte}

theorem addrOperand_isSome {b : Byte} (h : b.toNat ≤ 0x7F) : (addrOperand b).isSome = true := by
  simp [addrOperand, h]

theorem operandsN_isSome (j : Instr) (h : FrameFits .N (op :: bs)) :
    (operandsN j bs).isSome = true := by
  obtain ⟨hlen, -, -⟩ := h
  cases bs with
  | nil => rfl
  | cons b bs => simp [Format.frameLength] at hlen

theorem operandsWB_isSome (h : FrameFits .WB (op :: bs)) : (operandsWB bs).isSome = true := by
  obtain ⟨hlen, haddr, -⟩ := h
  match bs, hlen with
  | [a, r, v], _ => simpa [operandsWB] using addrOperand_isSome (haddr (.inl rfl) a rfl)

theorem operandsWN_isSome (h : FrameFits .WN (op :: bs)) : (operandsWN bs).isSome = true := by
  obtain ⟨hlen, haddr, -⟩ := h
  match bs, hlen with
  | a :: r :: n :: data, hlen =>
    have hdata : data.length = n.toNat := by
      simp only [Format.frameLength, List.getElem?_cons_succ, List.getElem?_cons_zero,
        Option.map_some, List.length_cons, Option.some.injEq] at hlen
      omega
    simpa [operandsWN, hdata] using addrOperand_isSome (haddr (.inr (.inl rfl)) a rfl)

theorem operandsRB_isSome (h : FrameFits .RB (op :: bs)) : (operandsRB bs).isSome = true := by
  obtain ⟨hlen, haddr, hpos⟩ := h
  match bs, hlen with
  | [a, r, len], _ =>
    have hlen : 1 ≤ len.toNat := by
      refine Nat.one_le_iff_ne_zero.2 fun h0 => hpos rfl ?_
      exact congrArg some (BitVec.eq_of_toNat_eq h0)
    simpa [operandsRB, hlen] using addrOperand_isSome (haddr (.inr (.inr rfl)) a rfl)

theorem operandsDF_isSome (h : FrameFits .DF (op :: bs)) : (operandsDF bs).isSome = true := by
  obtain ⟨hlen, -, -⟩ := h
  match bs, hlen with
  | flen :: rest, hlen =>
    simp only [Format.frameLength, List.getElem?_cons_succ, List.getElem?_cons_zero,
      List.length_cons] at hlen
    rw [show 2 + flen.toNat = flen.toNat + 1 + 1 by omega, List.getElem?_cons_succ,
      List.getElem?_cons_succ] at hlen
    obtain ⟨blen, hblen, hsum⟩ := Option.map_eq_some_iff.1 hlen
    obtain ⟨hlt, hget⟩ := List.getElem?_eq_some_iff.1 hblen
    have hdrop : rest.drop flen.toNat = blen :: rest.drop (flen.toNat + 1) := by
      rw [← hget, List.drop_eq_getElem_cons hlt]
    have hdata : (rest.drop (flen.toNat + 1)).length = blen.toNat := by
      rw [List.length_drop]
      omega
    simp only [operandsDF, hdrop, hdata, if_true, Option.isSome_some]

theorem operandsT_isSome (h : FrameFits .T (op :: bs)) : (operandsT bs).isSome = true := by
  obtain ⟨hlen, -, -⟩ := h
  have hbs : bs.length = 4 := by simpa [Format.frameLength, eq_comm] using hlen
  simp [operandsT, hbs]

theorem operandsP_isSome (h : FrameFits .P (op :: bs)) : (operandsP bs).isSome = true := by
  obtain ⟨hlen, -, -⟩ := h
  have hbs : bs.length = 12 := by simpa [Format.frameLength, eq_comm] using hlen
  simp [operandsP, hbs]

/-- The reader of each row accepts every frame that fits the row's format. -/
theorem operands_isSome {row : OpcodeRow} (hrow : row ∈ opcodeTable)
    (h : FrameFits row.format (op :: bs)) : (row.operands bs).isSome = true := by
  unfold opcodeTable at hrow
  fin_cases hrow
  · exact operandsWB_isSome h
  · exact operandsWN_isSome h
  · exact operandsRB_isSome h
  · exact operandsDF_isSome h
  · exact operandsN_isSome _ h
  · exact operandsT_isSome h
  · exact operandsP_isSome h
  all_goals exact operandsN_isSome _ h

end

/-! ### The statements -/

/-- Settles O1: the row of each command's opcode reads its operands back from their bytes. -/
theorem decodeReadsBackEveryEncodedCommand : Obligations.DecodeReadsBackEveryEncodedCommand := by
  intro i hw
  cases i with
  | wrreg a r v => exact decode_of_row rfl (operandsWB_encoded a r v)
  | wrbuf a r data => exact decode_of_row rfl (operandsWN_encoded a r hw)
  | rdbuf a r len => exact decode_of_row rfl (operandsRB_encoded a r (of_decide_eq_true hw))
  | decode fmt data =>
    obtain ⟨hf, hd⟩ := Bool.and_eq_true_iff.1 hw
    exact decode_of_row rfl (operandsDF_encoded hf hd)
  | setitime t => exact decode_of_row rfl (operandsT_encoded t)
  | setparam bl hy off => exact decode_of_row rfl (operandsP_encoded bl hy off)
  | setup | raw | light | rgb | color | getred | getgreen | getblue => exact decode_of_row rfl rfl

/-- Settles O2: no row ignores a byte of what it reads. -/
theorem decodedFrameIsTheCommandsFrame : Obligations.DecodedFrameIsTheCommandsFrame := by
  intro f i h
  obtain ⟨row, hrow, bs, rfl, hi⟩ := decode_eq_ok_iff.1 h
  exact operands_read hrow hi

/-- Settles O3, by evaluating the decoder on each frame. -/
theorem writtenOutFramesDecode : Obligations.WrittenOutFramesDecode :=
  ⟨rfl, rfl, rfl, rfl, rfl, rfl, rfl⟩

/-- Settles O4: a reader accepts exactly the frames that fit its format. -/
theorem decoderRefusesExactlyIllegalFrames : Obligations.DecoderRefusesExactlyIllegalFrames := by
  refine fun f => ⟨⟨noCommand_of_decode, decode_of_noCommand⟩, ?_⟩
  rw [decode_eq_illegalOperand_iff, badOperand_iff]
  constructor
  · rintro ⟨row, hrow, bs, rfl, hnone⟩
    refine ⟨row, hrow, rfl, fun hfits => ?_⟩
    have hsome := operands_isSome hrow hfits
    rw [hnone] at hsome
    cases hsome
  · rintro ⟨row, hrow, hop, hfits⟩
    obtain ⟨bs, rfl⟩ := List.head?_eq_some_iff.1 hop
    exact ⟨row, hrow, bs, rfl,
      Option.eq_none_iff_forall_ne_some.2 fun i hi => hfits (operands_fits hrow hi)⟩

end Sys2Proof.Machine
end

section
/-! PROOFS. Every command by one rule (30_encoding.md R80, 60_exceptions.md R228): a stretch that
plays the command's script, and a response. From it, once for all commands, every way that `exec`
can end; and from that the bus traffic (R80), the write matrix (10_state.md R29), the first driver
command after a reset (70_reset_and_hazards.md R252) and the range of COLOR's answer (43_color.md
R197). -/

namespace Sys2Proof.Machine

/-! ### Responses at the end of a script -/

/-- COLOR's payload: one byte, a class of 0 to 7 (43_color.md R197). -/
def IsClass (payload : List Byte) : Prop := ∃ c : Byte, payload = [c] ∧ c.toNat ≤ 7

/-- What the command `i` makes of the state `u` in which its transactions are all completed. -/
inductive Answered (i : Instr) (u : State) : State → Prop
  | responds {st : Status} {payload : List Byte} (hst : st = .ok ∨ st = .clearZero)
      (hcolor : i = .color → IsClass payload) : Answered i u (respond st payload u)
  | storesParams {bl hy off : S32} (hi : i = .setparam bl hy off) :
      Answered i u (respond .ok [] (u.setParams bl hy off))
  | formatError {fmt data : List Byte} (hi : i = .decode fmt data) :
      Answered i u (fatalEntry .fatalFormat u)

theorem Answered.ok {i : Instr} (u : State) (payload : List Byte) (hi : i ≠ .color) :
    Answered i u (respond .ok payload u) :=
  .responds (.inl rfl) fun h => absurd h hi

theorem clearStatus_cases (c : Nat) : clearStatus c = .ok ∨ clearStatus c = .clearZero := by
  unfold clearStatus
  split
  · exact .inr rfl
  · exact .inl rfl

theorem Answered.clear {i : Instr} (u : State) (c : Nat) (payload : List Byte) (hi : i ≠ .color) :
    Answered i u (respond (clearStatus c) payload u) :=
  .responds (clearStatus_cases c) fun h => absurd h hi

/-! ### The class -/

theorem decisionTree_le (lowSpread dark red green blue : Bool) :
    decisionTree lowSpread dark red green blue ≤ 7 := by
  revert lowSpread dark red green blue
  decide

theorem classify_le (m : Arith) (p : ClassParams) (ch : Channels) (c2 : Nat) :
    classify m p ch c2 ≤ 7 := by
  cases m <;> exact decisionTree_le _ _ _ _ _

theorem colorPayload_isClass (m : Arith) (p : ClassParams) (ch : Channels) (c2 : Nat) :
    IsClass (colorPayload m p ch c2) := by
  unfold colorPayload
  split
  · exact ⟨0x00, rfl, by decide⟩
  · exact ⟨_, rfl, (BitVec.toNat_ofNat _ _).trans_le
      ((Nat.mod_le _ _).trans (classify_le m p ch c2))⟩

/-! ### The rule of a command -/

/-- The command `i` is the stretch `p` and then `f`, under the common checks: `p` plays the script
of R80 and sets INIT as EnsureSetup does (41_driver_config.md R130), and `f` responds. -/
structure HasRule (i : Instr) {α : Type} (p : State → Progress α) (f : α → State → State) :
    Prop where
  exec_eq : ∀ s, exec i s = runCommand i s fun s => (p s).finish f
  follows : ∀ s, Follows s (commandScript s i) (p s)
  init : ∀ s, (p s).state.init = initAfter s i
  answered : ∀ a u, Answered i u (f a u)

/-- A stretch without a transaction. -/
theorem follows_nil {α : Type} (a : α) (s : State) : Follows s [] (.going a s) :=
  Advanced.refl s

theorem Follows.busaddr {α : Type} {s t : State} {ts : List Txn} {p : Progress α} {a : α}
    (h : Follows s ts p) (hp : p = .going a t) : t.busaddr = s.busaddr := by
  subst hp
  exact (Follows.going_iff.1 h).2.busaddr

/-- Two ends in a row are one end after both stretches. -/
theorem finish_finish {α β : Type} (p : Progress α) (q : α → State → Progress β)
    (f : β → State → State) :
    (p.finish fun a s => (q a s).finish f) = (p.bind q).finish f := by
  cases p <;> rfl

theorem initAfter_of_not_callsSetup {i : Instr} (h : callsSetup i = false) (s : State) :
    initAfter s i = s.init := by
  simp [initAfter, h]

theorem initAfter_of_callsSetup {i : Instr} (h : callsSetup i = true) (s : State) :
    initAfter s i = (s.init || (isOk (s.drawAt 0) && isOk (s.drawAt 1))) := by
  simp [initAfter, h]

/-- The write transaction after EnsureSetup (41_driver_config.md R135). -/
def timingWrite (t : S32) (s : State) : Progress Unit :=
  (ensureSetup s).bind fun _ s =>
    busWrite s.busaddr [Config.atimeReg, timingByte s.cfg.itimeRound t.toInt] s

theorem exec_setitime (t : S32) (s : State) :
    exec (.setitime t) s =
      runCommand (.setitime t) s fun s => (timingWrite t s).finish fun _ s => respond .ok [] s := by
  simp only [exec, execSetitime, timingWrite, ← finish_finish]

theorem timingWrite_follows (t : S32) (s : State) :
    Follows s (commandScript s (.setitime t)) (timingWrite t s) := by
  refine Follows.bind (ensureSetup_follows s) fun _ u hu => ?_
  have h := ensureSetup_follows s
  rw [hu] at h
  have hadv := (Follows.going_iff.1 h).2
  rw [← hadv.busaddr, ← hadv.cfg]
  exact busWrite_follows _ _ u

theorem timingWrite_init (t : S32) (s : State) :
    (timingWrite t s).state.init = (s.init || (isOk (s.drawAt 0) && isOk (s.drawAt 1))) := by
  rw [← ensureSetup_init, timingWrite]
  exact bind_init fun _ u _ => busWrite_init _ _ u

/-- The two channel reads of COLOR (43_color.md R190). -/
def readTwice (s : State) : Progress (Channels × Channels) :=
  (readChannels s).bind fun ch1 s => (readChannels s).bind fun ch2 s => .going (ch1, ch2) s

/-- COLOR's answer to two reads (R190, R194). -/
def answerClass (ch : Channels × Channels) (s : State) : State :=
  respond (clearStatus ch.1.clear) (colorPayload s.cfg.arith s.classParams ch.1 ch.2.clear) s

theorem exec_color (s : State) :
    exec .color s = runCommand .color s fun s => (readTwice s).finish answerClass := by
  simp only [exec, execColor, readTwice, ← finish_finish, finish_going, answerClass]

theorem readTwice_follows (s : State) : Follows s (commandScript s .color) (readTwice s) := by
  refine Follows.bind (readChannels_follows s) fun ch1 t ht => ?_
  have hscript : channelScript s = setupScript t ++ channelScript t ++ [] := by
    simp [setupScript, readChannels_going_init ht, channelScript,
      (readChannels_follows s).busaddr ht]
  rw [hscript]
  exact Follows.bind (readChannels_follows t) fun ch2 u _ => follows_nil (ch1, ch2) u

theorem readTwice_init (s : State) :
    (readTwice s).state.init = (s.init || (isOk (s.drawAt 0) && isOk (s.drawAt 1))) := by
  rw [← readChannels_init, readTwice]
  refine bind_init fun ch1 t ht => ?_
  rw [bind_init fun _ _ _ => rfl, readChannels_init, readChannels_going_init ht, Bool.true_or]

/-- The rule of the six read-out commands: ReadChannels and a response (42_readout.md R160). -/
theorem readout_hasRule {i : Instr} {f : Channels → State → State} (hcalls : callsSetup i = true)
    (hexec : ∀ s, exec i s = runCommand i s fun s => (readChannels s).finish f)
    (hscript : ∀ s, commandScript s i = setupScript s ++ channelScript s)
    (hf : ∀ ch u, Answered i u (f ch u)) : HasRule i readChannels f where
  exec_eq := hexec
  follows s := hscript s ▸ readChannels_follows s
  init s := (readChannels_init s).trans (initAfter_of_callsSetup hcalls s).symm
  answered := hf

/-- Every command has a rule. -/
theorem exists_rule (i : Instr) :
    ∃ (α : Type) (p : State → Progress α) (f : α → State → State), HasRule i p f := by
  cases i with
  | wrreg a r v =>
    exact ⟨_, busWrite a [r, v], _, fun _ => rfl, busWrite_follows a _,
      fun s => (busWrite_init a _ s).trans (initAfter_of_not_callsSetup rfl s).symm,
      fun _ u => .ok u [] (by simp)⟩
  | wrbuf a r data =>
    exact ⟨_, busWrite a (r :: data), _, fun _ => rfl, busWrite_follows a _,
      fun s => (busWrite_init a _ s).trans (initAfter_of_not_callsSetup rfl s).symm,
      fun _ u => .ok u [] (by simp)⟩
  | rdbuf a r len =>
    exact ⟨_, registerRead a r len.toNat, _, fun _ => rfl, registerRead_follows a r _,
      fun s => (registerRead_init a r _ s).trans (initAfter_of_not_callsSetup rfl s).symm,
      fun d u => .ok u d (by simp)⟩
  | decode fmt data =>
    refine ⟨_, .going (), fun _ => answerDecoded fmt data, fun _ => rfl, follows_nil (),
      fun s => (initAfter_of_not_callsSetup rfl s).symm, fun _ u => ?_⟩
    unfold answerDecoded
    cases decodeFormat fmt data with
    | some vals => exact .ok u _ (by simp)
    | none => exact .formatError rfl
  | setup =>
    exact ⟨_, ensureSetup, _, fun _ => rfl, ensureSetup_follows,
      fun s => (ensureSetup_init s).trans (initAfter_of_callsSetup rfl s).symm,
      fun _ u => .ok u [] (by simp)⟩
  | setitime t =>
    exact ⟨_, timingWrite t, _, exec_setitime t, timingWrite_follows t,
      fun s => (timingWrite_init t s).trans (initAfter_of_callsSetup rfl s).symm,
      fun _ u => .ok u [] (by simp)⟩
  | setparam bl hy off =>
    exact ⟨_, .going (), fun _ u => respond .ok [] (u.setParams bl hy off), fun _ => rfl,
      follows_nil (), fun s => (initAfter_of_not_callsSetup rfl s).symm,
      fun _ u => .storesParams rfl⟩
  | raw =>
    exact ⟨_, _, _, readout_hasRule rfl (fun _ => rfl) (fun _ => rfl) fun ch u => .ok u _ (by simp)⟩
  | light =>
    exact ⟨_, _, _, readout_hasRule rfl (fun _ => rfl) (fun _ => rfl) fun ch u => .ok u _ (by simp)⟩
  | rgb | getred | getgreen | getblue =>
    exact ⟨_, _, _, readout_hasRule rfl (fun _ => rfl) (fun _ => rfl)
      fun ch u => .clear u _ _ (by simp)⟩
  | color =>
    exact ⟨_, readTwice, _, exec_color, readTwice_follows,
      fun s => (readTwice_init s).trans (initAfter_of_callsSetup rfl s).symm,
      fun ch u => .responds (clearStatus_cases _) fun _ => colorPayload_isClass _ _ _ _⟩

/-! ### Every way a command can end -/

/-- The events of a command's transactions from `s`, and how its script ends (R80). -/
abbrev State.traffic (s : State) (i : Instr) : List Event × ScriptEnd :=
  playScript s 0 (commandScript s i)

theorem playScript_beginCommand (s : State) (i : Instr) (k : Nat) (ts : List Txn) :
    playScript (s.beginCommand i) k ts = playScript s k ts := by
  induction ts generalizing k with
  | nil => rfl
  | cons x ts ih => simp only [playScript, drawAt_beginCommand, ih]

theorem commandScript_beginCommand (s : State) (i j : Instr) :
    commandScript (s.beginCommand j) i = commandScript s i := by
  cases i <;> rfl

theorem traffic_beginCommand (s : State) (i j : Instr) :
    (s.beginCommand j).traffic i = s.traffic i := by
  rw [State.traffic, commandScript_beginCommand, playScript_beginCommand]

/-- How a well-formed command on a running block can end, by the end of its script (60_exceptions.md
R225, R232). -/
inductive CommandEnd (i : Instr) (s : State) : State → Prop
  | answered {u t : State} (hdone : (s.traffic i).2 = .done)
      (hadv : Advanced (s.beginCommand i) u (s.traffic i).1) (hinit : u.init = initAfter s i)
      (hans : Answered i u t) : CommandEnd i s t
  | failed {u : State} (hfail : (s.traffic i).2 = .failed)
      (hadv : Advanced (s.beginCommand i) u (s.traffic i).1) (hinit : u.init = initAfter s i) :
      CommandEnd i s (fatalEntry .fatalBus u)
  | stalled {u : State} (hstall : (s.traffic i).2 = .stalled)
      (hadv : Advanced (s.beginCommand i) u (s.traffic i).1) (hinit : u.init = initAfter s i) :
      CommandEnd i s u

theorem HasRule.commandEnd {i : Instr} {α : Type} {p : State → Progress α}
    {f : α → State → State} (h : HasRule i p f) (s : State) :
    CommandEnd i s ((p (s.beginCommand i)).finish f) := by
  have hfollows := h.follows (s.beginCommand i)
  have hinit : (p (s.beginCommand i)).state.init = initAfter s i := h.init _
  have htraffic := traffic_beginCommand s i i
  cases hp : p (s.beginCommand i) with
  | going a u =>
    rw [hp] at hfollows hinit
    obtain ⟨hdone, hadv⟩ := Follows.going_iff.1 hfollows
    exact .answered (htraffic ▸ hdone) (htraffic ▸ hadv) hinit (h.answered a u)
  | ended u =>
    rw [hp] at hfollows hinit
    rcases Follows.ended_iff.1 hfollows with ⟨hfail, v, hadv, rfl⟩ | ⟨hstall, hadv⟩
    · exact .failed (htraffic ▸ hfail) (htraffic ▸ hadv) hinit
    · exact .stalled (htraffic ▸ hstall) (htraffic ▸ hadv) hinit

/-- Everything `exec` can do: the two checks of R228 and the ends of a command. -/
inductive ExecEnd (i : Instr) (s : State) : State → Prop
  | halted (hm : s.mode = .halted) : ExecEnd i s (s.afterCommand 0 [.resp [0x82]])
  | illegal (hm : s.mode = .run) (hw : i.wf = false) :
      ExecEnd i s (s.afterCommand 0 [.resp [0x03]])
  | ended {t : State} (hm : s.mode = .run) (hw : i.wf = true) (hend : CommandEnd i s t) :
      ExecEnd i s t

theorem exec_illegal {i : Instr} {s : State} (hm : s.mode = .run) (hw : i.wf = false) :
    exec i s = .next (s.afterCommand 0 [.resp [0x03]]) := by
  obtain ⟨body, hbody⟩ := exec_eq_runCommand i
  rw [hbody, runCommand_illegal hm hw]
  rfl

theorem exec_commandEnd {i : Instr} {s : State} (hm : s.mode = .run) (hw : i.wf = true) :
    ∃ t, exec i s = .next t ∧ CommandEnd i s t := by
  obtain ⟨α, p, f, hrule⟩ := exists_rule i
  exact ⟨_, by rw [hrule.exec_eq, runCommand_run hm hw], hrule.commandEnd s⟩

theorem exec_execEnd (i : Instr) (s : State) : ∃ t, exec i s = .next t ∧ ExecEnd i s t := by
  cases hm : s.mode with
  | halted => exact ⟨_, exec_halted i hm, .halted hm⟩
  | run =>
    cases hw : i.wf with
    | false => exact ⟨_, exec_illegal hm hw, .illegal hm hw⟩
    | true =>
      obtain ⟨t, ht, hend⟩ := exec_commandEnd hm hw
      exact ⟨t, ht, .ended hm hw hend⟩

theorem execEnd_of_exec {i : Instr} {s t : State} (h : exec i s = .next t) : ExecEnd i s t := by
  obtain ⟨u, hu, hend⟩ := exec_execEnd i s
  rw [hu] at h
  cases h
  exact hend

theorem commandEnd_of_exec {i : Instr} {s t : State} (hm : s.mode = .run) (hw : i.wf = true)
    (h : exec i s = .next t) : CommandEnd i s t := by
  obtain ⟨u, hu, hend⟩ := exec_commandEnd hm hw
  rw [hu] at h
  cases h
  exact hend

/-! ### The events and the fields of an ended command -/

/-- Playing a script gives events of transactions only. -/
theorem playScript_isTransaction {s : State} {k : Nat} {ts : List Txn} {e : Event}
    (he : e ∈ (playScript s k ts).1) : e.isTransaction = true := by
  have hevent : ∀ (x : Txn) (o : BusOutcome), (x.event o).isTransaction = true := by
    intro x o
    cases x <;> rfl
  induction ts generalizing k with
  | nil => cases he
  | cons x ts ih =>
    simp only [playScript] at he
    split at he
    · rcases List.mem_cons.1 he with rfl | he
      · exact hevent x _
      · exact ih he
    · rw [List.mem_singleton.1 he, hevent]
    · rw [List.mem_singleton.1 he, hevent]

/-- A script with no transaction is completed at once. -/
theorem script_ne_nil {s : State} {i : Instr} (h : (s.traffic i).2 ≠ .done) :
    commandScript s i ≠ [] := by
  intro hnil
  rw [State.traffic, hnil] at h
  exact h rfl

/-- A script that ends with anything but `Ok` has played a transaction. -/
theorem traffic_ne_nil {s : State} {i : Instr} (h : (s.traffic i).2 ≠ .done) :
    (s.traffic i).1 ≠ [] := by
  obtain ⟨x, ts, hts⟩ := List.exists_cons_of_ne_nil (script_ne_nil h)
  rw [State.traffic, hts, playScript]
  split <;> simp

theorem Answered.trace {i : Instr} {u t : State} (h : Answered i u t) :
    ∃ (st : Status) (payload : List Byte),
      t.trace = u.trace ++ [.resp (st.code :: payload)] ∧ st ≠ .fatalBus ∧ st ≠ .halted := by
  cases h with
  | @responds st payload hst _ =>
    exact ⟨st, payload, rfl, by rcases hst with rfl | rfl <;> decide,
      by rcases hst with rfl | rfl <;> decide⟩
  | storesParams hi => exact ⟨.ok, [], rfl, by decide, by decide⟩
  | formatError hi => exact ⟨.fatalFormat, [], rfl, by decide, by decide⟩

/-- A response leaves the ports' inputs and answers, INIT, BUSADDR and the parameters of R7. -/
theorem Answered.kept {i : Instr} {u t : State} (h : Answered i u t) :
    t.answers = u.answers ∧ t.drawn = u.drawn ∧ t.init = u.init ∧ t.busaddr = u.busaddr ∧
      t.cfg = u.cfg ∧ t.inputs = u.inputs ∧ t.seq = none := by
  cases h <;> exact ⟨rfl, rfl, rfl, rfl, rfl, rfl, rfl⟩

/-- What every end of a command keeps and uses up: the answers to its transactions are used up, and
its events are the transactions and at most one response. -/
structure Traffic (i : Instr) (s t : State) (tail : List Event) : Prop where
  trace : t.trace = s.trace ++ ((s.traffic i).1 ++ tail)
  tail : tail = [] ∨ ∃ f, tail = [.resp f]
  answers : t.answers = s.answers.drop (s.traffic i).1.length
  drawn : t.drawn = s.drawn + (s.traffic i).1.length
  cfg : t.cfg = s.cfg
  busaddr : t.busaddr = s.busaddr
  inputs : t.inputs = s.inputs
  init : t.init = initAfter s i
  written : t.init = s.init ∨ setupWrites s.busaddr <:+: (s.traffic i).1

/-- Setup writes are the one way that INIT is set (10_state.md R22). -/
theorem Advanced.written {s t : State} {es : List Event} (h : Advanced s t es) :
    t.init = s.init ∨ setupWrites s.busaddr <:+: es := by
  rcases h.init with hkept | ⟨-, -, hwritten⟩
  · exact .inl hkept
  · exact .inr hwritten

theorem CommandEnd.traffic {i : Instr} {s t : State} (h : CommandEnd i s t) :
    ∃ tail, Traffic i s t tail := by
  cases h with
  | @answered u _ hdone hadv hinit hans =>
    obtain ⟨st, payload, htrace, -, -⟩ := hans.trace
    obtain ⟨hanswers, hdrawn, hi, hbus, hcfg, hin, -⟩ := hans.kept
    refine ⟨[.resp (st.code :: payload)], ?_, .inr ⟨_, rfl⟩, hanswers.trans hadv.answers,
      hdrawn.trans hadv.drawn, hcfg.trans hadv.cfg, hbus.trans hadv.busaddr, hin.trans hadv.inputs,
      hi.trans hinit, ?_⟩
    · rw [htrace, hadv.trace, List.append_assoc]
      rfl
    · rw [hi]
      exact hadv.written
  | @failed u hfail hadv hinit =>
    refine ⟨[.resp [0x80]], ?_, .inr ⟨_, rfl⟩, hadv.answers, hadv.drawn, hadv.cfg, hadv.busaddr,
      hadv.inputs, hinit, hadv.written⟩
    rw [← List.append_assoc, ← beginCommand_trace s i, ← hadv.trace]
    rfl
  | stalled hstall hadv hinit =>
    refine ⟨[], ?_, .inl rfl, hadv.answers, hadv.drawn, hadv.cfg, hadv.busaddr, hadv.inputs, hinit,
      hadv.written⟩
    rw [List.append_nil]
    exact hadv.trace

/-- A state changed only by a command's transactions is one named state but for INIT, which the
setup writes may have set (R130). -/
theorem Advanced.withInit {i : Instr} {s u : State} {es : List Event} {b : Bool}
    (h : Advanced (s.beginCommand i) u es) (hb : u.init = b) :
    ∃ v, Advanced (s.beginCommand i) v es ∧ v.init = s.init ∧ u = { v with init := b } :=
  ⟨{ u with init := s.init }, { h with init := .inl rfl }, rfl, by subst hb; rfl⟩

theorem CommandEnd.params {i : Instr} {s t : State} (h : CommandEnd i s t) :
    (t.blackLimit = s.blackLimit ∧ t.hyst = s.hyst ∧ t.offset = s.offset) ∨
      i = .setparam t.blackLimit t.hyst t.offset := by
  cases h with
  | answered hdone hadv hinit hans =>
    cases hans with
    | storesParams hi => exact .inr hi
    | responds | formatError => exact .inl ⟨hadv.blackLimit, hadv.hyst, hadv.offset⟩
  | failed hfail hadv hinit => exact .inl ⟨hadv.blackLimit, hadv.hyst, hadv.offset⟩
  | stalled hstall hadv hinit => exact .inl ⟨hadv.blackLimit, hadv.hyst, hadv.offset⟩

/-- Only the fatal entries of 60_exceptions.md R225 and 40_adapter.md R108 change MODE. -/
theorem CommandEnd.mode {i : Instr} {s t : State} (h : CommandEnd i s t) (hm : s.mode = .run) :
    (t.mode = s.mode ∧ t.fatalCause = s.fatalCause) ∨
      (s.mode = .run ∧ t.mode = .halted ∧ t.fatalCause = 0x80 ∧ commandScript s i ≠ []) ∨
      (s.mode = .run ∧ t.mode = .halted ∧ t.fatalCause = 0x81 ∧
        ∃ fmt data : List Byte, i = .decode fmt data) := by
  cases h with
  | answered hdone hadv hinit hans =>
    cases hans with
    | formatError hi => exact .inr (.inr ⟨hm, rfl, rfl, _, _, hi⟩)
    | responds | storesParams => exact .inl ⟨hadv.mode, hadv.fatalCause⟩
  | failed hfail hadv hinit =>
    exact .inr (.inl ⟨hm, rfl, rfl, script_ne_nil (by rw [hfail]; decide)⟩)
  | stalled hstall hadv hinit => exact .inl ⟨hadv.mode, hadv.fatalCause⟩

theorem initAfter_cases (s : State) (i : Instr) :
    initAfter s i = s.init ∨ (s.init = false ∧ initAfter s i = true ∧ callsSetup i = true) := by
  cases hi : s.init with
  | true => exact .inl (by simp [initAfter, hi])
  | false =>
    cases h : initAfter s i with
    | false => exact .inl rfl
    | true => exact .inr ⟨rfl, rfl, by simp_all [initAfter]⟩

/-! ### The setup writes at the head of a script -/

theorem wf_of_callsSetup {i : Instr} (h : callsSetup i = true) : i.wf = true := by
  cases i with
  | wrbuf | rdbuf | decode => cases h
  | _ => rfl

theorem commandScript_of_callsSetup {i : Instr} (h : callsSetup i = true) (s : State) :
    ∃ ts, commandScript s i = setupScript s ++ ts := by
  cases i with
  | setup => exact ⟨[], (List.append_nil _).symm⟩
  | color => exact ⟨_, List.append_assoc _ _ _⟩
  | setitime | raw | light | rgb | getred | getgreen | getblue => exact ⟨_, rfl⟩
  | wrreg | wrbuf | rdbuf | decode | setparam => cases h

/-- Before INIT is set, playing a script of a driver command begins with the setup writes. -/
theorem playScript_setupScript {s : State} (hi : s.init = false) (ts : List Txn) :
    ∃ o es, (playScript s 0 (setupScript s ++ ts)).1 = .write s.busaddr [0x80, 0x03] o :: es ∧
      (isOk o = true → ∃ o' es', es = .write s.busaddr [0x81, 0x2B] o' :: es') := by
  simp only [setupScript, hi, Bool.false_eq_true, if_false, List.cons_append, List.nil_append,
    playScript, Txn.outcome, Txn.event]
  cases s.drawAt 0 with
  | ok d =>
    refine ⟨.ok [], _, rfl, fun _ => ?_⟩
    cases s.drawAt (0 + 1) <;> exact ⟨_, _, rfl⟩
  | fail => exact ⟨.fail, [], rfl, fun h => by cases h⟩
  | stall => exact ⟨.stall, [], rfl, fun h => by cases h⟩

/-! ### The statements -/

/-- Settles O21, by the end of the script. -/
theorem busTrafficFollowsTheCommandsScript : Obligations.BusTrafficFollowsTheCommandsScript := by
  intro i s hm hw
  obtain ⟨t, ht, hend⟩ := exec_commandEnd hm hw
  refine ⟨t, ht, ?_⟩
  cases hend with
  | answered hdone hadv hinit hans =>
    obtain ⟨st, payload, htrace, hbus, hhalted⟩ := hans.trace
    obtain ⟨hanswers, hdrawn, hi, -, -, -, hseq⟩ := hans.kept
    simp only [hdone]
    exact ⟨⟨st, payload, by rw [htrace, hadv.trace]; rfl, hbus, hhalted⟩,
      hanswers.trans hadv.answers, hdrawn.trans hadv.drawn, hseq, hi.trans hinit⟩
  | failed hfail hadv hinit =>
    obtain ⟨v, hv, hvi, rfl⟩ := hadv.withInit hinit
    simp only [hfail]
    rw [← hv.fatalEntry_eq hvi]
    rfl
  | stalled hstall hadv hinit =>
    obtain ⟨v, hv, hvi, rfl⟩ := hadv.withInit hinit
    simp only [hstall]
    rw [← hv.eq_afterStall hvi]

/-- Settles O22, on each end of the command; a response changes the parameters only for SETPARAM,
and halts the block only for DECODE. -/
theorem commandsWriteOnlyTheirFields : Obligations.CommandsWriteOnlyTheirFields := by
  intro i s t hexec
  cases execEnd_of_exec hexec with
  | halted hm =>
    exact ⟨rfl, rfl, rfl, .inl ⟨rfl, rfl, rfl⟩, .inl rfl, .inl ⟨rfl, rfl⟩,
      fun _ => ⟨rfl, rfl, rfl, rfl, rfl, rfl⟩⟩
  | illegal hm hw =>
    exact ⟨rfl, rfl, rfl, .inl ⟨rfl, rfl, rfl⟩, .inl rfl, .inl ⟨rfl, rfl⟩,
      fun _ => ⟨rfl, rfl, rfl, rfl, rfl, rfl⟩⟩
  | ended hm hw hend =>
    obtain ⟨tail, htraffic⟩ := hend.traffic
    exact ⟨htraffic.cfg, htraffic.busaddr, htraffic.inputs, hend.params,
      htraffic.init ▸ initAfter_cases s i, hend.mode hm, fun hhalted => by simp [hm] at hhalted⟩

/-- Settles O14: after a reset INIT is clear, so the script begins with the setup writes. -/
theorem firstDriverCommandAfterResetRepeatsSetup :
    Obligations.FirstDriverCommandAfterResetRepeatsSetup := by
  intro i s t hcalls hexec
  obtain ⟨tail, htraffic⟩ := (commandEnd_of_exec (s := resetBlock s) rfl (wf_of_callsSetup hcalls)
    hexec).traffic
  obtain ⟨ts, hscript⟩ := commandScript_of_callsSetup hcalls (resetBlock s)
  obtain ⟨o, es, hes, hnext⟩ := playScript_setupScript (s := resetBlock s) rfl ts
  have htrace := htraffic.trace
  rw [State.traffic, hscript, hes] at htrace
  refine ⟨o, es ++ tail, by simpa using htrace, fun ho => ?_⟩
  obtain ⟨o', es', rfl⟩ := hnext ho
  exact ⟨o', es' ++ tail, rfl⟩

/-- Settles O45: a completed COLOR ends in its own response, which carries a class; every other end
has another status or, where the block stalls, a transaction as its last event. -/
theorem colorClassIsAtMostSeven : Obligations.ColorClassIsAtMostSeven := by
  intro s t st payload hexec hlast hst
  cases execEnd_of_exec hexec with
  | halted hm =>
    obtain ⟨rfl, -⟩ : 0x82 = st ∧ [] = payload := by simpa using hlast
    exact absurd hst (by decide)
  | illegal hm hw => cases hw
  | ended hm hw hend =>
    cases hend with
    | @answered u _ hdone hadv hinit hans =>
      cases hans with
      | responds hstatus hcolor =>
        obtain ⟨-, rfl⟩ : _ ∧ _ := by simpa using hlast
        exact hcolor rfl
      | storesParams hi => cases hi
      | formatError hi => cases hi
    | failed hfail hadv hinit =>
      obtain ⟨rfl, -⟩ : 0x80 = st ∧ [] = payload := by simpa [Status.code] using hlast
      exact absurd hst (by decide)
    | stalled hstall hadv hinit =>
      have hne := traffic_ne_nil (s := s) (i := .color) (by rw [hstall]; decide)
      rw [hadv.trace, List.getLast?_append_of_ne_nil _ hne] at hlast
      have hresp := playScript_isTransaction (List.mem_of_getLast? hlast)
      cases hresp

end Sys2Proof.Machine
end

section
/-! PROOFS. The step (60_exceptions.md R228, 70_reset_and_hazards.md R251, R260): everything it can
do, once, and from it the three invariants of the run and the abort of a command by a reset. -/

namespace Sys2Proof.Machine

/-! ### Everything a step can do -/

theorem wf_of_decode {f : Frame} {i : Instr} (h : decode f = .ok i) : i.wf = true :=
  (decodedFrameIsTheCommandsFrame f i h).1

/-- What becomes of a delivered frame, already observed in `s`: it is answered by the checks of
R228, or its command runs. -/
inductive Delivered (s : State) : State → Prop
  | halted (hm : s.mode = .halted) : Delivered s (respond .halted [] s)
  | refused {st : Status} (hm : s.mode = .run) (hst : st = .illegalCommand ∨ st = .illegalOperand) :
      Delivered s (respond st [] s)
  | ran {i : Instr} {t : State} (hm : s.mode = .run) (hw : i.wf = true) (hend : CommandEnd i s t) :
      Delivered s t

/-- `s` with the frame `f` taken from the host and observed. -/
def State.received (s : State) (f : Frame) (rest : List HostInput) : State :=
  { s with inputs := rest }.log (.cmd f)

/-- The state a step leads to. -/
inductive StepEnd (s : State) : State → Prop
  | rested : StepEnd s s
  | reset (rest : List HostInput) : StepEnd s (restReset rest s)
  | delivered {f : Frame} {rest : List HostInput} {t : State} (hseq : s.seq = none)
      (h : Delivered (s.received f rest) t) : StepEnd s t
  | aborted {f : Frame} {rest rest' : List HostInput} {k : Nat} {t : State} (hseq : s.seq = none)
      (h : Delivered (s.received f rest) t) :
      StepEnd s (abortAfter k rest' (s.received f rest) t)

theorem refusalStatus_cases (e : DecodeError) :
    refusalStatus e = .illegalCommand ∨ refusalStatus e = .illegalOperand := by
  cases e
  · exact .inl rfl
  · exact .inr rfl

theorem dispatchFrame_of_decode {s : State} {f : Frame} {i : Instr} (hm : s.mode = .run)
    (h : decode f = .ok i) : dispatchFrame f s = .ok i := by
  simp only [dispatchFrame, hm, h]

theorem nextMove_delivered {s : State} {f : Frame} {rest : List HostInput} (hseq : s.seq = none)
    (hin : s.inputs = .command f :: rest) :
    nextMove s = .command (dispatchFrame f s) (s.received f rest) := by
  simp only [nextMove, hin, hseq, State.received]

/-- A delivered frame, dispatched and then ended (R228, R251). -/
theorem step_delivered {s : State} {f : Frame} {rest : List HostInput} (hseq : s.seq = none)
    (hin : s.inputs = .command f :: rest) :
    ∃ t, Delivered (s.received f rest) t ∧
      step s = endCommand (s.received f rest) (.next t) := by
  have hmove := nextMove_delivered hseq hin
  cases hm : s.mode with
  | halted =>
    rw [dispatchFrame_halted hm] at hmove
    exact ⟨_, .halted hm, by rw [step, hmove]⟩
  | run =>
    cases hdec : decode f with
    | error e =>
      rw [dispatchFrame_of_decode_error hm hdec] at hmove
      exact ⟨_, .refused hm (refusalStatus_cases e), by rw [step, hmove]⟩
    | ok i =>
      rw [dispatchFrame_of_decode hm hdec] at hmove
      have hw := wf_of_decode hdec
      obtain ⟨t, ht, hend⟩ := exec_commandEnd (s := s.received f rest) hm hw
      exact ⟨t, .ran hm hw hend, by rw [step, hmove, ← ht]⟩

theorem step_stepEnd (s : State) : ∃ t, step s = .next t ∧ StepEnd s t := by
  rcases nextMove_cases s with ⟨_, hmove⟩ | ⟨_, rest, _, _, hmove⟩ | ⟨_, _, _, _, _, hmove⟩ |
    ⟨f, rest, hin, hseq, _⟩
  case inl | inr.inr.inl => exact ⟨s, step_of_rest hmove, .rested⟩
  case inr.inl => exact ⟨_, step_of_rest hmove, .reset rest⟩
  case inr.inr.inr =>
    obtain ⟨t, ht, hstep⟩ := step_delivered hseq hin
    rcases endCommand_next_cases (s.received f rest) t with hend | ⟨k, rest', hend⟩
    · exact ⟨t, hstep.trans hend, .delivered hseq ht⟩
    · exact ⟨_, hstep.trans hend, .aborted hseq ht⟩

theorem stepEnd_of_step {s t : State} (h : step s = .next t) : StepEnd s t := by
  obtain ⟨u, hu, hend⟩ := step_stepEnd s
  rw [hu] at h
  cases h
  exact hend

/-! ### Legal states (10_state.md R23, R27) -/

/-- A fatal code while halted, none while running. -/
theorem State.legal_iff (s : State) :
    s.Legal ↔ s.busaddr = s.cfg.devAddr ∧
      ((s.mode = .run ∧ s.fatalCause = 0x00) ∨
        (s.mode = .halted ∧ (s.fatalCause = 0x80 ∨ s.fatalCause = 0x81) ∧ s.seq = none)) := by
  unfold State.Legal
  cases s.mode <;> simp

theorem CommandEnd.legal {i : Instr} {s t : State} (h : CommandEnd i s t) (hm : s.mode = .run)
    (hs : s.Legal) : t.Legal := by
  obtain ⟨hbus, hmode⟩ := s.legal_iff.1 hs
  have hcause : s.fatalCause = 0x00 := by simpa [hm] using hmode
  obtain ⟨tail, htraffic⟩ := h.traffic
  refine t.legal_iff.2 ⟨by rw [htraffic.busaddr, htraffic.cfg, hbus], ?_⟩
  cases h with
  | answered hdone hadv hinit hans =>
    cases hans with
    | formatError hi => exact .inr ⟨rfl, .inr rfl, rfl⟩
    | responds | storesParams =>
      exact .inl ⟨hadv.mode.trans hm, hadv.fatalCause.trans hcause⟩
  | failed hfail hadv hinit => exact .inr ⟨rfl, .inl rfl, rfl⟩
  | stalled hstall hadv hinit => exact .inl ⟨hadv.mode.trans hm, hadv.fatalCause.trans hcause⟩

theorem Delivered.legal {s t : State} (h : Delivered s t) (hs : s.Legal) : t.Legal := by
  cases h with
  | halted hm =>
    obtain ⟨hbus, hmode⟩ := s.legal_iff.1 hs
    obtain ⟨hcause, -⟩ : _ ∧ s.seq = none := by simpa [hm] using hmode
    exact (State.legal_iff _).2 ⟨hbus, .inr ⟨hm, hcause, rfl⟩⟩
  | refused hm hst =>
    obtain ⟨hbus, hmode⟩ := s.legal_iff.1 hs
    have hcause : s.fatalCause = 0x00 := by simpa [hm] using hmode
    exact (State.legal_iff _).2 ⟨hbus, .inl ⟨hm, hcause⟩⟩
  | ran hm hw hend => exact hend.legal hm hs

/-! ### Setup writes behind INIT (R22) -/

/-- Events without a reset only add to the events since the last one. -/
theorem sinceReset_append {es fs : List Event} (h : ∀ e ∈ fs, e ≠ .reset) :
    sinceReset (es ++ fs) = sinceReset es ++ fs := by
  induction fs using List.reverseRecOn with
  | nil => simp
  | append_singleton fs e ih =>
    have he : e ≠ .reset := h e (by simp)
    have hfs := ih fun e he => h e (by simp [he])
    unfold sinceReset at hfs ⊢
    rw [← List.append_assoc, List.foldl_append, hfs]
    simp [he]

/-- The events of a command hold no reset. -/
theorem Traffic.ne_reset {i : Instr} {s t : State} {tail : List Event} (h : Traffic i s t tail) :
    ∀ e ∈ (s.traffic i).1 ++ tail, e ≠ .reset := by
  rintro e he rfl
  rcases List.mem_append.1 he with he | he
  · cases playScript_isTransaction he
  · rcases h.tail with rfl | ⟨f, rfl⟩
    · cases he
    · cases List.mem_singleton.1 he

theorem CommandEnd.setupWritten {i : Instr} {s t : State} (h : CommandEnd i s t)
    (hs : s.SetupWritten) : t.SetupWritten := by
  intro hinit
  obtain ⟨tail, htraffic⟩ := h.traffic
  rw [htraffic.trace, htraffic.busaddr, sinceReset_append htraffic.ne_reset]
  rcases htraffic.written with hkept | hwritten
  · exact (hs (hkept ▸ hinit)).trans (List.infix_append' [] _ _)
  · rw [← List.append_assoc]
    exact hwritten.trans (List.infix_append _ _ _)

/-- Observing an event other than a reset keeps the setup invariant. -/
theorem setupWritten_of_event {s t : State} {e : Event} (hs : s.SetupWritten) (he : e ≠ .reset)
    (hinit : t.init = s.init) (hbus : t.busaddr = s.busaddr) (htrace : t.trace = s.trace ++ [e]) :
    t.SetupWritten := by
  intro hi
  rw [hbus, htrace, sinceReset_append (by simpa using he)]
  exact (hs (hinit ▸ hi)).trans (List.infix_append' [] _ _)

theorem Delivered.setupWritten {s t : State} (h : Delivered s t) (hs : s.SetupWritten) :
    t.SetupWritten := by
  cases h with
  | halted hm => exact setupWritten_of_event hs (by simp) rfl rfl rfl
  | refused hm hst => exact setupWritten_of_event hs (by simp) rfl rfl rfl
  | ran hm hw hend => exact hend.setupWritten hs

/-! ### Legal observations (20_memory.md R47, R57) -/

theorem Phase.run_append (p : Phase) (es fs : List Event) :
    p.run (es ++ fs) = (p.run es).bind fun q => q.run fs := by
  induction es generalizing p with
  | nil => rfl
  | cons e es ih =>
    simp only [List.cons_append, Phase.run]
    cases p.next e with
    | none => rfl
    | some q => exact ih q

/-- A reset is admitted after any legal observation, and after any part of one up to some event. -/
theorem Phase.run_reset {p q : Phase} {es fs : List Event} (h : p.run (es ++ fs) = some q) :
    p.run (es ++ [.reset]) = some .idle := by
  rw [Phase.run_append] at h ⊢
  obtain ⟨r, hr, -⟩ := Option.bind_eq_some_iff.1 h
  rw [hr]
  cases r <;> rfl

/-- The lengths of R44: a listed transaction that the phase of a running command admits. -/
def Txn.legal : Txn → Prop
  | .write _ v => 1 ≤ v.length ∧ v.length ≤ 256
  | .read _ n => 1 ≤ n ∧ n ≤ 255

theorem Txn.next_busy {x : Txn} (h : x.legal) (a : BusOutcome) :
    Phase.busy.next (x.event (x.outcome a)) = some (.afterOutcome (x.outcome a)) := by
  cases x with
  | write addr v =>
    have hout : writeOutcome a = writeOutcome (writeOutcome a) := by cases a <;> rfl
    exact if_pos (Bool.and_eq_true_iff.2
      ⟨decide_eq_true (p := 1 ≤ _ ∧ _ ≤ 256) h, decide_eq_true hout⟩)
  | read addr n =>
    have hout : readOutcome n a = readOutcome n (readOutcome n a) := by
      cases a with
      | ok d => by_cases hd : d.length = n <;> simp [readOutcome, hd]
      | fail | stall => rfl
    exact if_pos (Bool.and_eq_true_iff.2
      ⟨decide_eq_true (p := 1 ≤ _ ∧ _ ≤ 255) h, decide_eq_true hout⟩)

/-- The phase in which a script leaves a command. -/
def ScriptEnd.phase : ScriptEnd → Phase
  | .done => .busy
  | .failed => .failed
  | .stalled => .stalled

/-- Playing a script of legal transactions is a legal observation inside a command. -/
theorem Phase.run_playScript {ts : List Txn} (h : ∀ x ∈ ts, x.legal) (s : State) (k : Nat) :
    Phase.busy.run (playScript s k ts).1 = some (playScript s k ts).2.phase := by
  induction ts generalizing k with
  | nil => rfl
  | cons x ts ih =>
    obtain ⟨hx, hts⟩ := List.forall_mem_cons.1 h
    have hnext := Txn.next_busy hx (s.drawAt k)
    simp only [playScript]
    cases hout : x.outcome (s.drawAt k) with
    | ok d =>
      rw [hout] at hnext
      simp only [Phase.run, hnext]
      exact ih hts (k + 1)
    | fail | stall =>
      rw [hout] at hnext
      simp only [Phase.run, hnext]
      rfl

theorem setupScript_legal (s : State) : ∀ x ∈ setupScript s, x.legal := by
  unfold setupScript
  split <;> simp [Txn.legal]

theorem channelScript_legal (s : State) : ∀ x ∈ channelScript s, x.legal := by
  simp [channelScript, Txn.legal]

/-- A well-formed command lists transactions of legal lengths only (R44). -/
theorem commandScript_legal {i : Instr} (hw : i.wf = true) (s : State) :
    ∀ x ∈ commandScript s i, x.legal := by
  have hsetup := setupScript_legal s
  have hchannel := channelScript_legal s
  have hread : ∀ x ∈ setupScript s ++ channelScript s, x.legal :=
    List.forall_mem_append.2 ⟨hsetup, hchannel⟩
  cases i with
  | wrreg a r v => simp [commandScript, Txn.legal]
  | wrbuf a r data =>
    have hlen : data.length ≤ 255 := of_decide_eq_true hw
    simp only [commandScript, List.forall_mem_singleton, Txn.legal, List.length_cons]
    omega
  | rdbuf a r len =>
    have hpos : 1 ≤ len.toNat := of_decide_eq_true hw
    have hlen : len.toNat < 256 := len.isLt
    have hlegal : (Txn.read a len.toNat).legal := ⟨hpos, by omega⟩
    exact List.forall_mem_cons.2 ⟨by simp [Txn.legal], List.forall_mem_singleton.2 hlegal⟩
  | decode | setparam => simp [commandScript]
  | setup => exact hsetup
  | setitime t => exact List.forall_mem_append.2 ⟨hsetup, by simp [Txn.legal]⟩
  | color => exact List.forall_mem_append.2 ⟨hread, hchannel⟩
  | raw | light | rgb | getred | getgreen | getblue => exact hread

theorem State.phase_of_idle {s : State} (hm : s.mode = .run) (hseq : s.seq = none) :
    s.phase = .idle := by
  simp only [State.phase, hm, hseq]

theorem State.phase_of_halted {s : State} (hm : s.mode = .halted) :
    s.phase = .halted s.fatalCause := by
  simp only [State.phase, hm]

theorem respond_phase {u : State} (hm : u.mode = .run) (st : Status) (payload : List Byte) :
    (respond st payload u).phase = .idle :=
  State.phase_of_idle hm rfl

/-- A response of a block that has met no failure leads to the phase that the state shows. -/
theorem Answered.phase {i : Instr} {u t : State} (h : Answered i u t) (hm : u.mode = .run) :
    ∃ e, t.trace = u.trace ++ [e] ∧ Phase.busy.next e = some t.phase := by
  cases h with
  | responds hst hcolor =>
    rw [respond_phase hm]
    rcases hst with rfl | rfl <;> exact ⟨_, rfl, rfl⟩
  | @storesParams bl hy off hi =>
    rw [respond_phase (u := u.setParams bl hy off) hm]
    exact ⟨_, rfl, rfl⟩
  | formatError hi => exact ⟨_, rfl, rfl⟩

/-- A legal observation with legal events added. -/
theorem Phase.run_trans {p q r : Phase} {es fs : List Event} (h : p.run es = some q)
    (h' : q.run fs = some r) : p.run (es ++ fs) = some r := by
  rw [Phase.run_append, h]
  exact h'

theorem Phase.run_add {p q r : Phase} {es : List Event} {e : Event} (h : p.run es = some q)
    (h' : q.next e = some r) : p.run (es ++ [e]) = some r :=
  Phase.run_trans h (by simp only [Phase.run, h'])

theorem CommandEnd.observationLegal {i : Instr} {s t : State} (h : CommandEnd i s t)
    (hm : s.mode = .run) (hw : i.wf = true) (hs : Phase.idle.run s.trace = some .busy) :
    t.ObservationLegal := by
  have hplay := Phase.run_trans hs (Phase.run_playScript (commandScript_legal hw s) s 0)
  cases h with
  | answered hdone hadv hinit hans =>
    obtain ⟨e, htrace, hnext⟩ := hans.phase (hadv.mode.trans hm)
    rw [hdone] at hplay
    rw [State.ObservationLegal, htrace, hadv.trace]
    exact Phase.run_add hplay hnext
  | failed hfail hadv hinit =>
    rw [hfail] at hplay
    rw [State.ObservationLegal, fatalEntry_trace, hadv.trace]
    exact Phase.run_add hplay rfl
  | stalled hstall hadv hinit =>
    have hphase : t.phase = .stalled := by
      simp only [State.phase, hadv.mode, beginCommand_mode, hm, hadv.seq, beginCommand_seq,
        Option.map_some]
    rw [hstall] at hplay
    rw [State.ObservationLegal, hphase, hadv.trace]
    exact hplay

theorem Delivered.observationLegal {s t : State} {f : Frame} {rest : List HostInput}
    (hseq : s.seq = none) (h : Delivered (s.received f rest) t) (hs : s.ObservationLegal) :
    t.ObservationLegal := by
  cases h with
  | halted hm =>
    have hphase : s.phase = .halted s.fatalCause := State.phase_of_halted hm
    have hcmd : Phase.idle.run (s.received f rest).trace = some (.haltedBusy s.fatalCause) :=
      Phase.run_add (hs.trans (congrArg some hphase)) rfl
    rw [State.ObservationLegal, State.phase_of_halted (by exact hm)]
    exact Phase.run_add hcmd rfl
  | refused hm hst =>
    have hcmd : Phase.idle.run (s.received f rest).trace = some .busy :=
      Phase.run_add (hs.trans (congrArg some (State.phase_of_idle hm hseq))) rfl
    rw [State.ObservationLegal, respond_phase (u := s.received f rest) hm]
    rcases hst with rfl | rfl <;> exact Phase.run_add hcmd rfl
  | ran hm hw hend =>
    exact hend.observationLegal hm hw
      (Phase.run_add (hs.trans (congrArg some (State.phase_of_idle hm hseq))) rfl)

/-! ### A reset inside a command (70_reset_and_hazards.md R251) -/

/-- What becomes of a delivered frame only adds to the observation. -/
theorem Delivered.trace {s t : State} (h : Delivered s t) : ∃ es, t.trace = s.trace ++ es := by
  cases h with
  | halted hm => exact ⟨_, rfl⟩
  | refused hm hst => exact ⟨_, rfl⟩
  | ran hm hw hend =>
    obtain ⟨tail, htraffic⟩ := hend.traffic
    exact ⟨_, htraffic.trace⟩

theorem abortAfter_trace_of_append {s t : State} {es : List Event} (h : t.trace = s.trace ++ es)
    (k : Nat) (rest : List HostInput) :
    (abortAfter k rest s t).trace = s.trace ++ es.take k ++ [.reset] := by
  rw [abortAfter_trace, h, List.drop_left]

/-- A reset leaves a block whose observation is legal, whatever of the command was done. -/
theorem abortAfter_observationLegal {s t : State} {es : List Event} (h : t.trace = s.trace ++ es)
    (ht : t.ObservationLegal) (k : Nat) (rest : List HostInput) :
    (abortAfter k rest s t).ObservationLegal := by
  rw [State.ObservationLegal, abortAfter_trace_of_append h]
  refine Phase.run_reset (fs := es.drop k) (q := t.phase) ?_
  rw [List.append_assoc, List.take_append_drop, ← h]
  exact ht

/-- The number of transactions among the events of a command up to its k-th. -/
theorem abortAfter_issued {s t : State} {es : List Event} (h : t.trace = s.trace ++ es) (k : Nat)
    (rest : List HostInput) :
    (abortAfter k rest s t).answers =
        s.answers.drop ((es.take k).filter Event.isTransaction).length ∧
      (abortAfter k rest s t).drawn =
        s.drawn + ((es.take k).filter Event.isTransaction).length := by
  have hdone : t.trace.drop s.trace.length = es := by rw [h, List.drop_left]
  unfold abortAfter
  rw [hdone]
  exact ⟨rfl, rfl⟩

section
variable {i : Instr} {s t : State} {tail : List Event}

/-- Before the last event of a command stand only transactions. -/
theorem Traffic.take_isTransaction (h : Traffic i s t tail) {k : Nat}
    (hk : k < ((s.traffic i).1 ++ tail).length) :
    ∀ e ∈ ((s.traffic i).1 ++ tail).take k, e.isTransaction = true := by
  have hle : k ≤ (s.traffic i).1.length := by
    rcases h.tail with rfl | ⟨f, rfl⟩ <;> simp at hk <;> omega
  intro e he
  rw [List.take_append_of_le_length hle] at he
  exact playScript_isTransaction (List.mem_of_mem_take he)

theorem Traffic.filter_isTransaction (h : Traffic i s t tail) :
    ((s.traffic i).1 ++ tail).filter Event.isTransaction = (s.traffic i).1 := by
  have htail : tail.filter Event.isTransaction = [] := by
    rcases h.tail with rfl | ⟨f, rfl⟩ <;> rfl
  rw [List.filter_append, htail, List.append_nil]
  exact List.filter_eq_self.2 fun e he => playScript_isTransaction he

end

/-! ### The statements -/

/-- Settles O19, on each thing a step can do. -/
theorem stepKeepsTheObservationLegal : Obligations.StepKeepsTheObservationLegal := by
  intro s t hs hstep
  cases stepEnd_of_step hstep with
  | rested => exact hs
  | reset rest =>
    refine Phase.run_reset (fs := []) (q := s.phase) ?_
    rw [List.append_nil]
    exact hs
  | delivered hseq h => exact h.observationLegal hseq hs
  | aborted hseq h =>
    obtain ⟨es, htrace⟩ := h.trace
    exact abortAfter_observationLegal htrace (h.observationLegal hseq hs) _ _

/-- Settles O20: a step without a reset only adds events, and INIT is set by the setup writes among
them; a reset clears INIT. -/
theorem stepKeepsInitBehindSetupWrites : Obligations.StepKeepsInitBehindSetupWrites := by
  intro s t hs hstep
  cases stepEnd_of_step hstep with
  | rested => exact hs
  | reset rest => exact fun hinit => nomatch hinit
  | @delivered f rest _ hseq h =>
    have hreceived : (s.received f rest).SetupWritten :=
      setupWritten_of_event hs (by simp) rfl rfl rfl
    exact h.setupWritten hreceived
  | aborted hseq h => exact fun hinit => nomatch hinit

/-- Settles O10. -/
theorem everyStepHasANextState : Obligations.EveryStepHasANextState := by
  intro s
  obtain ⟨t, ht, -⟩ := step_stepEnd s
  exact ⟨t, ht⟩

/-- Settles O18, on each thing a step can do. -/
theorem stepKeepsTheStateLegal : Obligations.StepKeepsTheStateLegal := by
  intro s t hs hstep
  cases stepEnd_of_step hstep with
  | rested => exact hs
  | reset rest => exact ⟨rfl, rfl⟩
  | delivered hseq h => exact h.legal hs
  | aborted hseq h => exact ⟨rfl, rfl⟩

/-- Settles O9: the dispatch gives the command, and nothing ends it early. -/
theorem stepRunsTheDecodedCommand : Obligations.StepRunsTheDecodedCommand := by
  intro s f rest i hm hseq hin hcalm hdec
  have hmove := nextMove_delivered hseq hin
  rw [dispatchFrame_of_decode hm hdec] at hmove
  rw [step, hmove]
  exact endCommand_undisturbed hcalm

/-- Settles O13: the command's events are transactions and at most one response, so a reset before
the last of them finds transactions only. -/
theorem resetInsideCommandAbortsIt : Obligations.ResetInsideCommandAbortsIt := by
  intro s t f rest k i hm hseq hin hdec hexec
  have hstep : step s =
      .next (abortAfter k rest (s.received f (.resetDuring k :: rest)) t) := by
    have hmove := nextMove_delivered hseq hin
    rw [dispatchFrame_of_decode hm hdec] at hmove
    rw [step, hmove]
    exact congrArg (endCommand _) hexec
  obtain ⟨tail, htraffic⟩ := (commandEnd_of_exec (s := s.received f (.resetDuring k :: rest)) hm
    (wf_of_decode hdec) hexec).traffic
  obtain ⟨hanswers, hdrawn⟩ := abortAfter_issued htraffic.trace k rest
  refine ⟨_, _, htraffic.trace, hstep, abortAfter_trace_of_append htraffic.trace k rest, rfl, rfl,
    rfl, rfl, rfl, rfl, rfl, rfl, rfl, rfl, fun hk => ?_, fun hk => ?_⟩
  · have htake := htraffic.take_isTransaction hk
    rw [List.filter_eq_self.2 htake, List.length_take_of_le hk.le] at hanswers hdrawn
    exact ⟨htake, hanswers, hdrawn⟩
  · rw [List.take_of_length_le hk, htraffic.filter_isTransaction] at hanswers hdrawn
    exact ⟨hanswers.trans htraffic.answers.symm, hdrawn.trans htraffic.drawn.symm⟩

/-- Settles O8: the operand check comes before the command's own rule. -/
theorem illFormedCommandAnswersIllegalOperand :
    Obligations.IllFormedCommandAnswersIllegalOperand :=
  fun _ _ hm hw => exec_illegal hm hw

/-- Settles O11, by the two moves that rest in the same state. -/
theorem restingBlockDoesNotMove : Obligations.RestingBlockDoesNotMove := by
  refine ⟨fun s hin => step_of_rest ?_, fun s f rest p hin hseq => step_of_rest ?_⟩
  · simp only [nextMove, hin]
  · simp only [nextMove, hin, hseq]

/-- Settles O17: INIT is clear and nothing has been observed. -/
theorem resetStateMeetsTheInvariants : Obligations.ResetStateMeetsTheInvariants :=
  ⟨⟨rfl, rfl⟩, rfl, fun hinit => nomatch hinit⟩

end Sys2Proof.Machine
end

section
/-! PROOFS. The values of DECODE's fields lie in the ranges of their characters (40_adapter.md
R106). -/

namespace Sys2Proof.Machine

/-- A window of a field spells a number of the field's width, in either order. -/
theorem leNat_window_lt {k : FieldKind} {window : List Byte} (hlen : window.length = k.width)
    (le : Bool) : leNat (if le then window else window.reverse) < 2 ^ (8 * k.width) := by
  have hlt := leNat_lt (if le then window else window.reverse)
  have hw : (if le then window else window.reverse).length = k.width := by cases le <;> simpa
  rwa [hw, show (256 : Nat) = 2 ^ 8 from rfl, ← Nat.pow_mul] at hlt

theorem FieldKind.value_unsigned_range {k : FieldKind} {window : List Byte}
    (hk : k.signed = false) (hlen : window.length = k.width) (le : Bool) :
    0 ≤ k.value le window ∧ k.value le window < 2 ^ (8 * k.width) := by
  rw [FieldKind.value_unsigned hk]
  exact ⟨Int.natCast_nonneg _, by exact_mod_cast leNat_window_lt hlen le⟩

theorem FieldKind.value_signed_range {k : FieldKind} {window : List Byte} (hk : k.signed = true)
    (hpos : 0 < k.width) (hlen : window.length = k.width) (le : Bool) :
    -2 ^ (8 * k.width - 1) ≤ k.value le window ∧ k.value le window < 2 ^ (8 * k.width - 1) := by
  rw [FieldKind.value_signed (w := BitVec.ofNat _ _) hk hpos
    (Nat.mod_eq_of_lt (leNat_window_lt hlen le)).symm]
  exact ⟨BitVec.le_toInt _, BitVec.toInt_lt⟩

/-- The column "value range" of R106, for each of the four field characters. -/
theorem inFieldRange_value {c : Byte} {k : FieldKind} {window : List Byte}
    (hk : fieldKind c = some k) (hlen : window.length = k.width) (le : Bool) :
    inFieldRange c (k.value le window) := by
  unfold fieldKind at hk
  split_ifs at hk with hb hB hh hH <;> cases hk <;> subst c
  · have hrange := FieldKind.value_signed_range rfl Nat.one_pos hlen le
    exact ⟨fun _ => by norm_num at hrange; omega, by simp, by simp, by simp⟩
  · have hrange := FieldKind.value_unsigned_range rfl hlen le
    exact ⟨by simp, fun _ => by norm_num at hrange; omega, by simp, by simp⟩
  · have hrange := FieldKind.value_signed_range rfl Nat.two_pos hlen le
    exact ⟨by simp, by simp, fun _ => by norm_num at hrange; omega, by simp⟩
  · have hrange := FieldKind.value_unsigned_range rfl hlen le
    exact ⟨by simp, by simp, by simp, fun _ => by norm_num at hrange; omega⟩

/-- The scan gives one value for each field character, in order, in its range. -/
theorem scanFormat_inFieldRange {le : Bool} {fmt data : List Byte} {vals : List Int}
    (h : scanFormat le fmt data = some vals) :
    List.Forall₂ inFieldRange (fmt.filter isField) vals := by
  induction fmt generalizing le data vals with
  | nil =>
    cases h
    exact .nil
  | cons c fmt ih =>
    rcases formatChar_cases c with hc | ⟨k, hk⟩ | ⟨hm, hk⟩
    · obtain ⟨le', hscan⟩ := scanFormat_marker hc
      have hfield : ¬ isField c = true := by rcases hc with rfl | rfl <;> decide
      rw [hscan] at h
      rw [List.filter_cons_of_neg hfield]
      exact ih h
    · obtain ⟨hlen, rest, hrest, rfl⟩ := scanFormat_field_eq_some hk h
      have hfield : isField c = true := by rw [isField_eq_isSome, hk]; rfl
      rw [List.filter_cons_of_pos hfield]
      exact .cons (inFieldRange_value hk (List.length_take_of_le hlen) le) (ih hrest)
    · rw [scanFormat_unknown hm hk] at h
      cases h

/-- Settles O30, from the scan in the order that stands before any marker. -/
theorem decodedValuesLieInTheirFieldsRanges : Obligations.DecodedValuesLieInTheirFieldsRanges :=
  fun _ _ _ h => scanFormat_inFieldRange h

end Sys2Proof.Machine
end

section
/-! PROOFS. The driver's commands where their transactions complete: SETUP repeated
(41_driver_config.md R133), SETITIME (R135), the read-out commands (42_readout.md R161 to R170), and
COLOR (43_color.md R190, R194). -/

namespace Sys2Proof.Machine

/-! ### SETUP, repeated (41_driver_config.md R133) -/

section
variable {s : State} {rest : List HostInput}

theorem undisturbed_replicate (n : Nat) (f : Frame) :
    undisturbed (List.replicate n (.command f)) = true := by
  cases n <;> rfl

theorem core_run_succ {s t : State} (n : Nat) (h : step s = .next t) :
    Host.Core.run Sys2Proof.core (n + 1) s = Host.Core.run Sys2Proof.core n t := by
  have hcore : Sys2Proof.core.step s = .next t := h
  simp only [Host.Core.run, hcore]

/-- Once INIT is set, a SETUP frame is answered OK and nothing else happens. -/
theorem step_setup_of_init (hm : s.mode = .run) (hseq : s.seq = none) (hi : s.init = true)
    (hin : s.inputs = .command [0x10] :: rest) (hcalm : undisturbed rest = true) :
    step s = .next { s with inputs := rest, trace := s.trace ++ [.cmd [0x10], .resp [0x00]] } := by
  have hexec := exec_setup_of_init
    (s := { s with inputs := rest, trace := s.trace ++ [.cmd [0x10]] }) hm hi
  rw [stepRunsTheDecodedCommand s [0x10] rest .setup hm hseq hin hcalm rfl, hexec]
  simp [State.afterCommand, hseq]

/-- The first SETUP frame, with its two setup writes completed. -/
theorem step_setup_of_not_init (hm : s.mode = .run) (hseq : s.seq = none) (hi : s.init = false)
    (hin : s.inputs = .command [0x10] :: rest) (hcalm : undisturbed rest = true)
    (h0 : isOk (s.drawAt 0) = true) (h1 : isOk (s.drawAt 1) = true) :
    step s = .next
      { s with
        init := true, inputs := rest, answers := s.answers.drop 2, drawn := s.drawn + 2
        trace := s.trace ++ .cmd [0x10] :: (setupWrites s.busaddr ++ [.resp [0x00]]) } := by
  have hok : setupOk s := setupOk_of_isOk h0 h1
  have hexec := exec_setup_of_setupOk
    (s := { s with inputs := rest, trace := s.trace ++ [.cmd [0x10]] }) hm hok
  rw [stepRunsTheDecodedCommand s [0x10] rest .setup hm hseq hin hcalm rfl, hexec]
  simp [State.afterCommand, setupCount, setupEvents, hi, hseq]

/-- Every SETUP frame after INIT is set is answered OK without a transaction. -/
theorem run_setup_of_init (n : Nat) (s : State) (hm : s.mode = .run) (hseq : s.seq = none)
    (hi : s.init = true) (hin : s.inputs = List.replicate n (.command [0x10])) :
    Host.Core.run Sys2Proof.core n s = .next
      { s with
        inputs := []
        trace := s.trace ++ (List.replicate n [.cmd [0x10], .resp [0x00]]).flatten } := by
  induction n generalizing s with
  | zero =>
    obtain ⟨⟩ := s
    cases hin
    simp [Host.Core.run]
  | succ n ih =>
    have hstep := step_setup_of_init hm hseq hi hin (undisturbed_replicate n _)
    refine (core_run_succ n hstep).trans
      ((ih _ (by exact hm) (by exact hseq) (by exact hi) rfl).trans ?_)
    simp [List.replicate_succ]

end

/-! ### Transactions further (41_driver_config.md R130, 42_readout.md R160) -/

section
variable {s : State} {n : Nat} {vs : List (List Byte)} {es : List Event}

/-- One more completed write. -/
theorem further_issue_log (s : State) (n : Nat) (vs : List (List Byte)) (es : List Event)
    (e : Event) : (s.further n vs es).issue.log e = s.further (n + 1) vs (es ++ [e]) := by
  simp [State.further, State.issue, State.log, Function.comp_def, Nat.add_assoc]

/-- Two advances in a row are one. -/
theorem further_further (s : State) (n m : Nat) (vs ws : List (List Byte)) (es fs : List Event) :
    (s.further n vs es).further m ws fs = s.further (n + m) (vs ++ ws) (es ++ fs) := by
  simp [State.further, Function.comp_def, Nat.add_assoc]

theorem setupOk_further : setupOk (s.further n vs es) := fun _ hk => absurd hk (Nat.not_lt_zero _)

/-- A channel read that completes later is one that completes from the later state. -/
theorem readOk_further {d : List Byte} (h : readOk s n d) : readOk (s.further n vs es) 0 d := by
  obtain ⟨hok, hdata, hlen⟩ := h
  exact ⟨by rw [drawAt_further]; exact hok, by rw [drawAt_further]; exact hdata, hlen⟩

end

theorem readOk_length {s : State} {k : Nat} {d : List Byte} (h : readOk s k d) : d.length = 8 := by
  obtain ⟨-, -, hlen⟩ := h
  exact hlen

theorem channelsOf_of_readOk {s : State} {k : Nat} {d : List Byte} (h : readOk s k d) :
    channelsOf d = some (channelWords d) :=
  channelBytesAreLittleEndian d (readOk_length h)

theorem timingWrite_ok {t : S32} {s : State}
    (h : ∀ k < setupCount s + 1, isOk (s.drawAt k) = true) :
    timingWrite t s = .going ()
      (s.further (setupCount s + 1) [] (setupEvents s ++
        [.write s.busaddr [0x81, timingByte s.cfg.itimeRound t.toInt] (.ok [])])) := by
  have hsetup : setupOk s := fun k hk => h k (hk.trans (Nat.lt_succ_self _))
  obtain ⟨d, hd⟩ := isOk_iff.1 (h (setupCount s) (Nat.lt_succ_self _))
  rw [timingWrite, ensureSetup_ok hsetup, bind_going,
    busWrite_ok (d := d) (by rw [drawAt_further]; exact hd), further_issue_log]
  rfl

/-- The two channel reads of COLOR, completed (43_color.md R190): the second finds INIT set. -/
theorem readTwice_ok {s : State} {d₁ d₂ : List Byte} (hsetup : setupOk s)
    (h1 : readOk s (setupCount s) d₁) (h2 : readOk s (setupCount s + 2) d₂) :
    readTwice s = .going (channelWords d₁, channelWords d₂)
      (s.further (setupCount s + 4) [d₁, d₂]
        (setupEvents s ++ channelEvents s d₁ ++ channelEvents s d₂)) := by
  rw [readTwice, readChannels_ok hsetup h1 (channelsOf_of_readOk h1), bind_going,
    readChannels_ok setupOk_further (readOk_further h2) (channelsOf_of_readOk h2), bind_going,
    further_further]
  rfl

/-! ### A completed read-out (42_readout.md R160) -/

section
variable {s : State} {d : List Byte}

/-- A command that reads the channels and responds, where its transactions complete. -/
theorem exec_readout {i : Instr} {st : Channels → Status} {payload : Channels → List Byte}
    (hw : i.wf = true)
    (hexec : ∀ s, exec i s = runCommand i s fun s =>
      (readChannels s).finish fun ch s => respond (st ch) (payload ch) s)
    (hm : s.mode = .run) (hsetup : setupOk s) (hread : readOk s (setupCount s) d) :
    exec i s =
      .next (s.afterReadout d ((st (channelWords d)).code :: payload (channelWords d))) := by
  rw [hexec, runCommand_run hm hw,
    readChannels_ok (s := s.beginCommand i) hsetup hread (channelsOf_of_readOk hread), finish_going,
    respond_further]
  rfl

/-! ### The payloads (30_encoding.md R79) -/

/-- A channel word is laid out as the two bytes it was read from. -/
theorem u16le_word16 (d : List Byte) (i : Nat) :
    u16le (word16 d i) = [d.getD (2 * i) 0, d.getD (2 * i + 1) 0] := by
  rw [word16, ← leNat_pair]
  exact leBytes_leNat [d.getD (2 * i) 0, d.getD (2 * i + 1) 0]

theorem rawPayload_channelWords (hlen : d.length = 8) : rawPayload (channelWords d) = d := by
  simp only [rawPayload, channelWords, u16le_word16]
  match d, hlen with
  | [_, _, _, _, _, _, _, _], _ => rfl

theorem clearStatus_code (c : Nat) : (clearStatus c).code = if c = 0 then 0x01 else 0x00 := by
  unfold clearStatus
  split <;> rfl

/-- A rounded accessor answers the rounded channel, or CLEAR_ZERO with 0 (R167, R170). -/
theorem clearStatus_roundedPayload (x c : Nat) :
    (clearStatus c).code :: roundedPayload x c =
      if c = 0 then [0x01, 0x00, 0x00, 0x00, 0x00]
      else 0x00 :: u32le ((510 * x + c) / (2 * c)) := by
  rw [clearStatus_code]
  unfold roundedPayload roundedNorm
  split <;> rfl

/-- COLOR's frame: the class, or CLEAR_ZERO with the sentinel class 0 (43_color.md R190, R194). -/
theorem clearStatus_colorPayload (m : Arith) (p : ClassParams) (ch : Channels) (c2 : Nat) :
    (clearStatus ch.clear).code :: colorPayload m p ch c2 =
      if ch.clear = 0 then [0x01, 0x00] else [0x00, BitVec.ofNat 8 (classify m p ch c2)] := by
  rw [clearStatus_code]
  unfold colorPayload
  split <;> rfl

end

/-! ### The statements -/

/-- Settles O32: the first SETUP sets INIT, and the later ones find it set. -/
theorem repeatedSetupWritesTwiceInAll : Obligations.RepeatedSetupWritesTwiceInAll := by
  intro n s hm hseq hi hin h0 h1
  have hstep := step_setup_of_not_init hm hseq hi hin (undisturbed_replicate n _) h0 h1
  refine (core_run_succ n hstep).trans
    ((run_setup_of_init n _ (by exact hm) (by exact hseq) rfl rfl).trans ?_)
  simp

/-- Settles O34; the clamps of R134 hide every t outside 0 to 612. -/
theorem setitimeWritesTheTimingByte : Obligations.SetitimeWritesTheTimingByte := by
  intro t s hm hok
  refine ⟨?_, fun hlow => ?_, fun hhigh => ?_⟩
  · rw [exec_setitime, runCommand_run hm rfl,
      timingWrite_ok (s := s.beginCommand (.setitime t)) hok, finish_going, respond_further,
      List.append_assoc]
    rfl
  all_goals
    unfold itimeTicks clamp
    cases s.cfg.itimeRound <;> simp only <;> omega

/-- Settles O37. -/
theorem rawAnswersTheBytesRead : Obligations.RawAnswersTheBytesRead := by
  intro s d hm hsetup hread
  rw [exec_readout rfl (fun _ => rfl) hm hsetup hread,
    rawPayload_channelWords (readOk_length hread)]
  rfl

/-- Settles O38. -/
theorem lightAnswersTheClearCount : Obligations.LightAnswersTheClearCount := by
  intro s d hm hsetup hread
  rw [exec_readout rfl (fun _ => rfl) hm hsetup hread, channelWords, u16le_word16]
  rfl

/-- Settles O39. -/
theorem rgbAnswersExactFractions : Obligations.RgbAnswersExactFractions := by
  intro s d hm hsetup hread
  rw [exec_readout rfl (fun _ => rfl) hm hsetup hread, clearStatus_code]
  rfl

/-- Settles O40: the three accessors differ in the channel word only. -/
theorem roundedAccessorsAnswerTheirChannel : Obligations.RoundedAccessorsAnswerTheirChannel := by
  intro s d hm hsetup hread
  refine ⟨?_, ?_, ?_⟩
  all_goals
    rw [exec_readout rfl (fun _ => rfl) hm hsetup hread, clearStatus_roundedPayload]
    rfl

/-- Settles O43: neither read changes the parameters, so the class is that of the state before. -/
theorem colorReadsTwiceAndClassifies : Obligations.ColorReadsTwiceAndClassifies := by
  intro s d₁ d₂ hm hsetup h1 h2
  rw [exec_color, runCommand_run hm rfl,
    readTwice_ok (s := s.beginCommand .color) hsetup h1 h2, finish_going, answerClass,
    respond_further, clearStatus_colorPayload]
  rfl

end Sys2Proof.Machine
end

section
/-! PROOFS. The classifier (43_color.md R191 to R195): the integer comparator by its branches, its
agreement with the decision tree on exact rationals, the ranges of its operands, and the corners of
the parameters. -/

namespace Sys2Proof.Machine

/-! ### The branches of the comparator (R192) -/

section
variable {p : ClassParams} {ch : Channels} {c2 : Nat}

theorem classifyExact_of_lowSpread (h : lowSpread p ch) :
    classifyExact p ch c2 = if (c2 : Int) < p.blackLimit then 0 else 7 := by
  simp only [classifyExact, decisionTree, decide_eq_true_eq]
  exact if_pos h

theorem classifyExact_of_not_lowSpread (h : ¬ lowSpread p ch) :
    classifyExact p ch c2 =
      (if channelSum ch * p.offset < 3000 * (ch.red : Int) then 1 else 0) +
        (if channelSum ch * p.offset < 3000 * (ch.green : Int) then 2 else 0) +
        (if channelSum ch * p.offset < 3000 * (ch.blue : Int) then 4 else 0) := by
  simp only [classifyExact, decisionTree, decide_eq_true_eq]
  exact if_neg h

/-- Without a positive hysteresis the spread, never negative, is not below the threshold (R195). -/
theorem not_lowSpread_of_hyst_nonpos (h : p.hyst ≤ 0) : ¬ lowSpread p ch := by
  have hthreshold : p.hyst * ch.clear ≤ 0 :=
    mul_nonpos_of_nonpos_of_nonneg h (Int.natCast_nonneg _)
  unfold lowSpread
  omega

/-- From an offset of 1 on, the channels are not all above their mean (R195). -/
theorem classifyExact_ne_seven (h : ¬ lowSpread p ch) (hoff : 1000 ≤ p.offset)
    (hsum : 0 < channelSum ch) : classifyExact p ch c2 ≠ 7 := by
  have hmean : channelSum ch * 1000 ≤ channelSum ch * p.offset :=
    mul_le_mul_of_nonneg_left hoff hsum.le
  rw [classifyExact_of_not_lowSpread h]
  unfold channelSum at *
  split_ifs <;> omega

/-- With a negative offset every channel is above the negative threshold (R195). -/
theorem classifyExact_eq_seven (h : ¬ lowSpread p ch) (hoff : p.offset < 0)
    (hsum : 0 < channelSum ch) : classifyExact p ch c2 = 7 := by
  have hneg : channelSum ch * p.offset < 0 := mul_neg_of_pos_of_neg hsum hoff
  rw [classifyExact_of_not_lowSpread h, if_pos (by omega), if_pos (by omega), if_pos (by omega)]

theorem classifyExact_of_channelSum_zero (h : ¬ lowSpread p ch) (hsum : channelSum ch = 0) :
    classifyExact p ch c2 = 0 := by
  rw [classifyExact_of_not_lowSpread h, hsum, zero_mul]
  unfold channelSum at hsum
  rw [if_neg (by omega), if_neg (by omega), if_neg (by omega)]

theorem classifyExact_of_offset_zero (h : ¬ lowSpread p ch) (hoff : p.offset = 0) :
    classifyExact p ch c2 =
      (if ch.red = 0 then 0 else 1) + (if ch.green = 0 then 0 else 2) +
        (if ch.blue = 0 then 0 else 4) := by
  have hbit : ∀ x n : Nat, (if 0 < 3000 * (x : Int) then n else 0) = if x = 0 then 0 else n := by
    intro x n
    split_ifs <;> omega
  rw [classifyExact_of_not_lowSpread h, hoff, mul_zero, hbit, hbit, hbit]

end

/-! ### The comparator against exact rationals (R191, R192) -/

/-- Quotients by one positive clear count keep their order, so their spread is the counts'. -/
theorem spread_div {c : Nat} (hc : 0 < c) (r g b : Nat) :
    (max (max ((255 * (r : ℚ)) / c) ((255 * (g : ℚ)) / c)) ((255 * (b : ℚ)) / c) -
        min (min ((255 * (r : ℚ)) / c) ((255 * (g : ℚ)) / c)) ((255 * (b : ℚ)) / c)) =
      ((255 * (max (max (r : Int) g) b - min (min (r : Int) g) b) : Int) : ℚ) / c := by
  have hmono : Monotone fun x : ℚ => (255 * x) / c := by
    intro x y hxy
    have hc' : (0 : ℚ) < c := Nat.cast_pos.2 hc
    have h255 : 255 * x ≤ 255 * y := by linarith
    exact div_le_div_of_nonneg_right h255 hc'.le
  have hmax : ∀ x y : ℚ, max ((255 * x) / c) ((255 * y) / c) = (255 * max x y) / c :=
    fun x y => hmono.map_max.symm
  have hmin : ∀ x y : ℚ, min ((255 * x) / c) ((255 * y) / c) = (255 * min x y) / c :=
    fun x y => hmono.map_min.symm
  rw [hmax, hmax, hmin, hmin]
  push_cast
  ring

theorem dif_lt_hyst_iff {c : Nat} (hc : 0 < c) (spread h : Int) :
    (spread : ℚ) / c < h ↔ spread < h * c := by
  rw [div_lt_iff₀ (Nat.cast_pos.2 hc)]
  exact_mod_cast Iff.rfl

/-- A channel is above the mean times OFFSET exactly where the products of R192 say so. -/
theorem channel_gt_avr_iff {c : Nat} (hc : 0 < c) (x r g b : Nat) (offset : Int) :
    (255 * (x : ℚ)) / c >
        ((255 * (r : ℚ)) / c + (255 * (g : ℚ)) / c + (255 * (b : ℚ)) / c) / 3 *
          ((offset : ℚ) / (Config.offsetScale : ℚ)) ↔
      3000 * (x : Int) > (r + g + b : Int) * offset := by
  have hc' : (0 : ℚ) < c := Nat.cast_pos.2 hc
  have havr : ((255 * (r : ℚ)) / c + (255 * (g : ℚ)) / c + (255 * (b : ℚ)) / c) / 3 *
      ((offset : ℚ) / (Config.offsetScale : ℚ)) =
      255 / (3000 * c) * (((r + g + b : Int) * offset : Int) : ℚ) := by
    unfold Config.offsetScale
    push_cast
    field_simp
    ring
  have hx : (255 * (x : ℚ)) / c = 255 / (3000 * c) * ((3000 * (x : Int) : Int) : ℚ) := by
    push_cast
    field_simp
  rw [havr, hx, gt_iff_lt, mul_lt_mul_iff_right₀ (by positivity), Int.cast_lt, gt_iff_lt]

/-- The five tests of R191 on exact quotients are the five integer comparisons of R192. -/
theorem classifyExact_eq_rational (p : ClassParams) {ch : Channels} (c2 : Nat) (hc : 0 < ch.clear) :
    classifyExact p ch c2 = classifyRounding id p ch c2 := by
  simp only [classifyRounding, id_eq, spread_div hc, dif_lt_hyst_iff hc, channel_gt_avr_iff hc]
  rfl

/-! ### The ranges of the comparator's operands -/

theorem abs_mul_lt {x y : Int} {n m : Nat} (hx : -2 ^ 31 ≤ x) (hx' : x < 2 ^ 31) (hy : 0 ≤ y)
    (hm : y < m) (hn : 2 ^ 31 * m ≤ n) : |x * y| < n := by
  have habs : |x| ≤ 2 ^ 31 := abs_le.2 ⟨hx, hx'.le⟩
  calc |x * y| = |x| * y := by rw [abs_mul, abs_of_nonneg hy]
    _ ≤ 2 ^ 31 * y := mul_le_mul_of_nonneg_right habs hy
    _ < 2 ^ 31 * m := by linarith
    _ ≤ n := by exact_mod_cast hn

/-! ### The statements -/

/-- Settles O44. -/
theorem comparatorGivesTheRationalClass : Obligations.ComparatorGivesTheRationalClass := by
  refine ⟨fun p ch c2 hc => classifyExact_eq_rational p c2 (Nat.pos_of_ne_zero hc),
    fun p ch hh hh' ho ho' hc hr hg hb => ⟨?_, ?_⟩⟩
  · exact abs_mul_lt (n := 2 ^ 47) (m := 2 ^ 16) hh hh' (Int.natCast_nonneg _)
      (by exact_mod_cast Nat.lt_succ_of_le hc) (by norm_num)
  · rw [mul_comm]
    exact abs_mul_lt (n := 2 ^ 49) (m := 2 ^ 18) ho ho' (by unfold channelSum; omega)
      (by unfold channelSum; norm_num; omega) (by norm_num)

/-- Settles O46, from the comparator's two branches. -/
theorem parameterCornersOfTheClassifier : Obligations.ParameterCornersOfTheClassifier := by
  refine fun p ch c2 _ => ⟨not_lowSpread_of_hyst_nonpos, fun h hc2 => ?_, fun h hbl => ?_,
    fun h hbl hc2 => ?_, classifyExact_of_channelSum_zero, classifyExact_ne_seven,
    classifyExact_of_offset_zero, classifyExact_eq_seven⟩
  · rw [classifyExact_of_lowSpread h, if_neg (by omega)]
  · rw [classifyExact_of_lowSpread h, if_neg (by omega)]
  · rw [classifyExact_of_lowSpread h, if_pos (by omega)]

end Sys2Proof.Machine
end

section
/-! PROOFS. Read-out under both values of `ARITH` (42_readout.md R171): binary64 rounding of a
normalised channel (00_scope.md R9, log entry 6), and the independence of the read-out commands of
`ARITH`. -/

namespace Sys2Proof.Machine

/-! ### Rounding to the nearest integer (R9) -/

theorem roundHalfEven_intCast (n : Int) : roundHalfEven n = n := by
  have hfloor : (n : ℚ).floor = n := Rat.floor_intCast n
  simp [roundHalfEven, hfloor]

theorem abs_roundHalfEven_sub_le (q : ℚ) : |(roundHalfEven q : ℚ) - q| ≤ 1 / 2 := by
  have hle : (q.floor : ℚ) ≤ q := Int.floor_le q
  have hlt : q < q.floor + 1 := Int.lt_floor_add_one q
  rw [abs_le]
  unfold roundHalfEven
  simp only
  split_ifs with hdown hup heven
  · constructor <;> linarith
  · push_cast
    constructor <;> linarith
  · constructor <;> linarith
  · push_cast
    constructor <;> linarith

/-! ### The unit in the last place of a value below 2^24 -/

theorem natAbs_num_lt {q : ℚ} {n : Nat} (h0 : 0 < q) (h : q < 2 ^ n) :
    q.num.natAbs < 2 ^ n * q.den := by
  have hden : (0 : ℚ) < q.den := Nat.cast_pos.2 q.den_pos
  have hnum : (q.num.natAbs : Int) = q.num := Int.natAbs_of_nonneg (Rat.num_nonneg.2 h0.le)
  have hlt : (q.num : ℚ) < 2 ^ n * q.den := by
    rwa [← Rat.num_div_den q, div_lt_iff₀ hden] at h
  rw [← hnum] at hlt
  exact_mod_cast hlt

/-- A value below 2^24 has an exponent of at most 23. -/
theorem binaryExponent_le {q : ℚ} (h0 : 0 < q) (h : q < 2 ^ 24) : binaryExponent q ≤ 23 := by
  have hnum := natAbs_num_lt h0 h
  have hnum0 : q.num.natAbs ≠ 0 := Int.natAbs_ne_zero.2 (Rat.num_pos.2 h0).ne'
  have hlog : Nat.log2 q.num.natAbs < Nat.log2 q.den + 25 := by
    rw [Nat.log2_lt hnum0]
    calc q.num.natAbs < 2 ^ 24 * q.den := hnum
      _ ≤ 2 ^ 24 * 2 ^ (Nat.log2 q.den + 1) := Nat.mul_le_mul_left _ Nat.lt_log2_self.le
      _ = 2 ^ (Nat.log2 q.den + 25) := by rw [← Nat.pow_add]; congr 1; omega
  unfold binaryExponent
  simp only
  split_ifs with hle
  · by_contra hlt
    have hk : (Nat.log2 q.num.natAbs : Int) - Nat.log2 q.den = 24 := by omega
    rw [hk] at hle
    have hpow : pow2 24 = ((2 ^ 24 : Nat) : ℚ) := rfl
    rw [hpow] at hle
    have hle' : 2 ^ 24 * q.den ≤ q.num.natAbs := by exact_mod_cast hle
    omega
  · omega

/-- Its last place is then worth at most 2^-29. -/
theorem exists_ulp {q : ℚ} (h0 : 0 < q) (h : q < 2 ^ 24) :
    ∃ j : Nat, pow2 (binaryExponent q - 52) = 1 / 2 ^ (j + 29) := by
  obtain ⟨j, hj⟩ := Int.eq_ofNat_of_zero_le (sub_nonneg.2 (binaryExponent_le h0 h))
  have hexp : binaryExponent q - 52 = Int.negSucc (j + 28) := by
    rw [Int.negSucc_eq]
    omega
  exact ⟨j, by rw [hexp, pow2]; push_cast; rfl⟩

/-! ### binary64 on values below 2^24 -/

theorem fl_eq {q : ℚ} (h0 : 0 < q) (h : q < 2 ^ 24) :
    ∃ j : Nat, fl q = roundHalfEven (q * 2 ^ (j + 29)) / 2 ^ (j + 29) := by
  obtain ⟨j, hj⟩ := exists_ulp h0 h
  refine ⟨j, ?_⟩
  unfold fl
  rw [if_neg h0.ne']
  simp only [hj, div_div_eq_mul_div, div_one, mul_one_div]

/-- Rounding moves such a value by half a last place at most. -/
theorem abs_fl_sub_le {q : ℚ} (h0 : 0 ≤ q) (h : q < 2 ^ 24) : |fl q - q| ≤ 1 / 2 ^ 30 := by
  rcases h0.eq_or_lt with rfl | h0
  · simp [fl]
  obtain ⟨j, hj⟩ := fl_eq h0 h
  have hpow : (2 : ℚ) ^ 29 ≤ 2 ^ (j + 29) := pow_le_pow_right₀ (by norm_num) (by omega)
  have hpos : (0 : ℚ) < 2 ^ (j + 29) := by positivity
  have hdiff : fl q - q =
      (roundHalfEven (q * 2 ^ (j + 29)) - q * 2 ^ (j + 29)) / 2 ^ (j + 29) := by
    rw [hj, sub_div, mul_div_cancel_right₀ _ hpos.ne']
  rw [hdiff, abs_div, abs_of_pos hpos, div_le_iff₀ hpos]
  have hround := abs_roundHalfEven_sub_le (q * 2 ^ (j + 29))
  linarith

/-- Half-integers below 2^24 are binary64 values. -/
theorem fl_half_integer {q : ℚ} {m : Int} (h0 : 0 ≤ q) (h : q < 2 ^ 24) (hm : 2 * q = m) :
    fl q = q := by
  rcases h0.eq_or_lt with rfl | h0
  · rfl
  · obtain ⟨j, hj⟩ := fl_eq h0 h
    have hint : q * 2 ^ (j + 29) = ((m * 2 ^ (j + 28) : Int) : ℚ) := by
      push_cast
      rw [← hm]
      ring
    rw [hj, hint, roundHalfEven_intCast, ← hint, mul_div_cancel_right₀ _ (by positivity)]

/-- A value that keeps more than the rounding error from both ends of `[n - 1/2, n + 1/2)` is still
nearest to n when it is rounded first. -/
theorem floor_fl_add_half_of_gap {q : ℚ} {n : Int} (h0 : 0 ≤ q) (h : q < 2 ^ 24)
    (hlow : n + 1 / 2 ^ 17 ≤ q + 1 / 2) (hhigh : q + 1 / 2 ≤ n + 1 - 1 / 2 ^ 17) :
    ⌊fl q + 1 / 2⌋ = n := by
  obtain ⟨hdown, hup⟩ := abs_le.1 (abs_fl_sub_le h0 h)
  rw [Int.floor_eq_iff]
  constructor <;> linarith

/-- A fraction that is no integer keeps one part of its denominator from the integers around it. -/
theorem div_gap {a d : Nat} (hd : 0 < d) (hne : a ≠ a / d * d) :
    ((a / d : Nat) : ℚ) + 1 / d ≤ (a : ℚ) / d ∧ (a : ℚ) / d ≤ ((a / d : Nat) : ℚ) + 1 - 1 / d := by
  have hdpos : (0 : ℚ) < d := Nat.cast_pos.2 hd
  have hle : a / d * d ≤ a := Nat.div_mul_le_self a d
  have hlt : a < (a / d + 1) * d := Nat.lt_mul_of_div_lt (Nat.lt_succ_self _) hd
  have hlow : ((a / d : Nat) : ℚ) * d + 1 ≤ a := by exact_mod_cast (by omega : a / d * d + 1 ≤ a)
  have hhigh : (a : ℚ) + 1 ≤ (((a / d : Nat) : ℚ) + 1) * d := by exact_mod_cast hlt
  rw [le_div_iff₀ hdpos, div_le_iff₀ hdpos, add_mul, sub_mul, one_div_mul_cancel hdpos.ne']
  exact ⟨hlow, by linarith⟩

/-- Rounding a quotient of u16 counts to binary64 first does not change its nearest integer: either
it is a half-integer, or it keeps 1/(2C) from the next one. -/
theorem floor_fl_add_half {x c : Nat} (hx : x ≤ 65535) (hc : 0 < c) (hc' : c ≤ 65535) :
    ⌊fl ((255 * (x : ℚ)) / c) + 1 / 2⌋ = (roundedNorm x c : Int) := by
  have hcpos : (0 : ℚ) < c := Nat.cast_pos.2 hc
  have hq0 : 0 ≤ (255 * (x : ℚ)) / c := by positivity
  have hq24 : (255 * (x : ℚ)) / c < 2 ^ 24 := by
    have hx' : (x : ℚ) ≤ 65535 := by exact_mod_cast hx
    have hc1 : (1 : ℚ) ≤ c := by exact_mod_cast hc
    rw [div_lt_iff₀ hcpos]
    linarith
  have hhalf := norm_add_half_eq_div x hc
  by_cases hint : 510 * x + c = (510 * x + c) / (2 * c) * (2 * c)
  · have hdouble : 2 * ((255 * (x : ℚ)) / c) = ((2 * roundedNorm x c - 1 : Int) : ℚ) := by
      have hvalue : (255 * (x : ℚ)) / c + 1 / 2 = (roundedNorm x c : ℚ) := by
        rw [hhalf, div_eq_iff (by positivity), roundedNorm]
        exact_mod_cast hint
      push_cast
      linarith
    rw [fl_half_integer hq0 hq24 hdouble, ← roundedNorm_eq_floor x hc]
  · obtain ⟨hlow, hhigh⟩ := div_gap (by omega) hint
    have hunit : (1 : ℚ) / 2 ^ 17 ≤ 1 / (2 * c : Nat) :=
      one_div_le_one_div_of_le (by positivity) (by exact_mod_cast (by omega : 2 * c ≤ 2 ^ 17))
    refine floor_fl_add_half_of_gap hq0 hq24 ?_ ?_
    · rw [hhalf, Int.cast_natCast, roundedNorm]
      linarith
    · rw [hhalf, Int.cast_natCast, roundedNorm]
      linarith

/-! ### The read-out commands do not read `ARITH` -/

/-- `s` under another value of the parameter `ARITH` (00_scope.md R7). -/
def State.withArith (s : State) (m : Arith) : State := { s with cfg := { s.cfg with arith := m } }

/-- A stretch of a command, under another value of `ARITH`. -/
def Progress.withArith {α : Type} (p : Progress α) (m : Arith) : Progress α :=
  match p with
  | .going a s => .going a (s.withArith m)
  | .ended s => .ended (s.withArith m)

section
variable (s : State) (m : Arith)

theorem drawAt_withArith (k : Nat) : (s.withArith m).drawAt k = s.drawAt k := rfl

theorem busWrite_withArith (a : Addr) (v : List Byte) :
    busWrite a v (s.withArith m) = (busWrite a v s).withArith m := by
  simp only [busWrite, drawAt_withArith]
  cases writeOutcome (s.drawAt 0) <;> rfl

theorem busRead_withArith (a : Addr) (n : Nat) :
    busRead a n (s.withArith m) = (busRead a n s).withArith m := by
  simp only [busRead, drawAt_withArith]
  cases readOutcome n (s.drawAt 0) <;> rfl

/-- Stretch after stretch under another value of `ARITH`, where the second does not read it. -/
theorem bind_withArith {α β : Type} (p : Progress α) {f : α → State → Progress β}
    (hf : ∀ a t, f a (t.withArith m) = (f a t).withArith m) :
    (p.withArith m).bind f = (p.bind f).withArith m := by
  cases p with
  | going a t => exact hf a t
  | ended t => rfl

theorem registerRead_withArith (a : Addr) (r : Byte) (n : Nat) :
    registerRead a r n (s.withArith m) = (registerRead a r n s).withArith m := by
  rw [registerRead, busWrite_withArith]
  exact bind_withArith m _ fun _ t => busRead_withArith t m a n

theorem ensureSetup_withArith : ensureSetup (s.withArith m) = (ensureSetup s).withArith m := by
  cases hi : s.init with
  | true => rw [ensureSetup_of_init hi, ensureSetup_of_init (s := s.withArith m) hi]; rfl
  | false =>
    rw [ensureSetup_of_not_init hi, ensureSetup_of_not_init (s := s.withArith m) hi,
      busWrite_withArith]
    refine bind_withArith m _ fun _ t => ?_
    rw [busWrite_withArith]
    exact bind_withArith m _ fun _ u => rfl

theorem readChannels_withArith : readChannels (s.withArith m) = (readChannels s).withArith m := by
  rw [readChannels, ensureSetup_withArith]
  refine bind_withArith m _ fun _ t => ?_
  rw [registerRead_withArith]
  refine bind_withArith m _ fun d u => ?_
  cases channelsOf d <;> rfl

end

/-- A command that reads the channels and answers from them alone does not depend on `ARITH`. -/
theorem exec_readout_withArith {i : Instr} {st : Channels → Status}
    {payload : Channels → List Byte} {s t : State} (m : Arith)
    (hexec : ∀ s, exec i s = runCommand i s fun s =>
      (readChannels s).finish fun ch s => respond (st ch) (payload ch) s)
    (h : exec i s = .next t) : exec i (s.withArith m) = .next (t.withArith m) := by
  rw [hexec] at h ⊢
  cases hm : s.mode with
  | halted =>
    rw [runCommand_halted hm] at h
    cases h
    exact runCommand_halted hm
  | run =>
    cases hw : i.wf with
    | false =>
      rw [runCommand_illegal hm hw] at h
      cases h
      exact runCommand_illegal hm hw
    | true =>
      rw [runCommand_run hm hw] at h
      cases h
      have hread := readChannels_withArith (s.beginCommand i) m
      rw [runCommand_run (s := s.withArith m) hm hw]
      refine congrArg Host.Outcome.next ((congrArg (Progress.finish · _) hread).trans ?_)
      cases readChannels (s.beginCommand i) <;> rfl

/-- Settles O42. -/
theorem readoutIsTheSameUnderBinary64 : Obligations.ReadoutIsTheSameUnderBinary64 := by
  refine ⟨fun x c hx hc hc' => floor_fl_add_half hx hc hc', fun i hi s t m hexec => ?_⟩
  cases i with
  | raw | light | rgb | getred | getgreen | getblue =>
    exact exec_readout_withArith m (fun _ => rfl) hexec
  | _ => simp at hi

end Sys2Proof.Machine
end
